-- ==== Sys2Proof/Word.lean ====
section
/-! DEFINITION. The words of the frame block FB: bytes, hexadecimal nibbles, 20-bit command words
and 32-bit response data (spec/00_scope.md R6, spec/30_encoding.md R70 and R75). Every value is
unsigned; a finite sequence of bytes (R7) is a `List Byte`. -/

namespace Sys2Proof

/-- An 8-bit unsigned value 0..255 (R6). -/
abbrev Byte := BitVec 8

/-- The 4-bit value of one hexadecimal digit (R63). -/
abbrev Nibble := BitVec 4

/-- The 4-bit operation field of a command word (R70). -/
abbrev OpField := BitVec 4

/-- A 20-bit command word, transferred whole (R70). -/
abbrev CommandWord := BitVec 20

/-- The 32-bit data word of a response (R75). -/
abbrev DataWord := BitVec 32

end Sys2Proof
end

