-- ==== Sys2Proof/Config.lean ====
section
/-! DEFINITION. The parameters of an FB instance (spec/00_scope.md R5). They are fixed for the life of
an instance and are never state (spec/70_reset_and_hazards.md R242). The meanings take a `Config` as
an argument (R12); `exec` and `step`, whose types the host fixes, run at `Config.chip`, an instance
about which nothing is known but that its parameters are legal. -/

namespace Sys2Proof

/-- The CRC8 lookup table `T`: a constant byte for every byte index (R29, R40, R45). -/
abbrev Table := Byte → Byte

/-- ETX_POLICY: how the validator places ETX (R5, R161, R162). -/
inductive EtxPolicy where
  | strictFirst
  | firstLoose
deriving DecidableEq, Repr, Inhabited

/-- COUNTERS: whether the discard counters exist (R5, R26). -/
inductive CounterOption where
  | present
  | absent
deriving DecidableEq, Repr, Inhabited

/-- The parameters of R5, under the names of the specification: CRC8_TABLE, MAX_SCAN (B),
ETX_POLICY, COUNTERS and CNT_W. -/
structure Config where
  table     : Table
  maxScan   : Nat
  etxPolicy : EtxPolicy
  counters  : CounterOption
  cntW      : Nat
deriving Inhabited

/-- TAB-1 of R103: the one checksum the source gives, `T[T[0x44] XOR 0x31] = 0x3F`. -/
abbrev Table.Tab1 (T : Table) : Prop := T (T 0x44#8 ^^^ 0x31#8) = 0x3F#8

/-- The 256 entries of a table in index order. -/
def Table.entries (T : Table) : List Byte := (List.range 256).map fun i => T (BitVec.ofNat 8 i)

/-- TAB-2 of R103: no two indices hold the same entry. -/
abbrev Table.Tab2 (T : Table) : Prop := T.entries.Nodup

/-- The legal values of R5's parameters (R103 for the table, decision D19 for MAX_SCAN). -/
structure Config.Legal (c : Config) : Prop where
  tab1    : c.table.Tab1
  tab2    : c.table.Tab2
  scanPos : 1 ≤ c.maxScan
  cntLow  : 1 ≤ c.cntW
  cntHigh : c.cntW ≤ 32

/-- Rows 0_ to 7_ of the table of R104. -/
def refRowsLow : List Nat :=
  [0x00, 0xB1, 0xD3, 0x62, 0x17, 0xA6, 0xC4, 0x75, 0x2E, 0x9F, 0xFD, 0x4C, 0x39, 0x88, 0xEA, 0x5B] ++
  [0x5C, 0xED, 0x8F, 0x3E, 0x4B, 0xFA, 0x98, 0x29, 0x72, 0xC3, 0xA1, 0x10, 0x65, 0xD4, 0xB6, 0x07] ++
  [0xB8, 0x09, 0x6B, 0xDA, 0xAF, 0x1E, 0x7C, 0xCD, 0x96, 0x27, 0x45, 0xF4, 0x81, 0x30, 0x52, 0xE3] ++
  [0xE4, 0x55, 0x37, 0x86, 0xF3, 0x42, 0x20, 0x91, 0xCA, 0x7B, 0x19, 0xA8, 0xDD, 0x6C, 0x0E, 0xBF] ++
  [0xC1, 0x70, 0x12, 0xA3, 0xD6, 0x67, 0x05, 0xB4, 0xEF, 0x5E, 0x3C, 0x8D, 0xF8, 0x49, 0x2B, 0x9A] ++
  [0x9D, 0x2C, 0x4E, 0xFF, 0x8A, 0x3B, 0x59, 0xE8, 0xB3, 0x02, 0x60, 0xD1, 0xA4, 0x15, 0x77, 0xC6] ++
  [0x79, 0xC8, 0xAA, 0x1B, 0x6E, 0xDF, 0xBD, 0x0C, 0x57, 0xE6, 0x84, 0x35, 0x40, 0xF1, 0x93, 0x22] ++
  [0x25, 0x94, 0xF6, 0x47, 0x32, 0x83, 0xE1, 0x50, 0x0B, 0xBA, 0xD8, 0x69, 0x1C, 0xAD, 0xCF, 0x7E]

/-- Rows 8_ to F_ of the table of R104. -/
def refRowsHigh : List Nat :=
  [0x33, 0x82, 0xE0, 0x51, 0x24, 0x95, 0xF7, 0x46, 0x1D, 0xAC, 0xCE, 0x7F, 0x0A, 0xBB, 0xD9, 0x68] ++
  [0x6F, 0xDE, 0xBC, 0x0D, 0x78, 0xC9, 0xAB, 0x1A, 0x41, 0xF0, 0x92, 0x23, 0x56, 0xE7, 0x85, 0x34] ++
  [0x8B, 0x3A, 0x58, 0xE9, 0x9C, 0x2D, 0x4F, 0xFE, 0xA5, 0x14, 0x76, 0xC7, 0xB2, 0x03, 0x61, 0xD0] ++
  [0xD7, 0x66, 0x04, 0xB5, 0xC0, 0x71, 0x13, 0xA2, 0xF9, 0x48, 0x2A, 0x9B, 0xEE, 0x5F, 0x3D, 0x8C] ++
  [0xF2, 0x43, 0x21, 0x90, 0xE5, 0x54, 0x36, 0x87, 0xDC, 0x6D, 0x0F, 0xBE, 0xCB, 0x7A, 0x18, 0xA9] ++
  [0xAE, 0x1F, 0x7D, 0xCC, 0xB9, 0x08, 0x6A, 0xDB, 0x80, 0x31, 0x53, 0xE2, 0x97, 0x26, 0x44, 0xF5] ++
  [0x4A, 0xFB, 0x99, 0x28, 0x5D, 0xEC, 0x8E, 0x3F, 0x64, 0xD5, 0xB7, 0x06, 0x73, 0xC2, 0xA0, 0x11] ++
  [0x16, 0xA7, 0xC5, 0x74, 0x01, 0xB0, 0xD2, 0x63, 0x38, 0x89, 0xEB, 0x5A, 0x2F, 0x9E, 0xFC, 0x4D]

/-- REF_TABLE of R104: a test-only table that meets TAB-1 and TAB-2. It is not the device's table. -/
def refTable : Table := fun i => BitVec.ofNat 8 ((refRowsLow ++ refRowsHigh).getD i.toNat 0)

/-- One round of the generation rule of R104: shift left within 8 bits, and XOR the polynomial 0xB1
when bit 7 was set. -/
def refRound (r : Byte) : Byte := if r.getLsbD 7 then (r <<< 1) ^^^ 0xB1#8 else r <<< 1

/-- The generation rule of R104: entry `i` after 8 rounds. The tests check REF_TABLE against it. -/
def refGenerated (i : Byte) : Byte :=
  refRound (refRound (refRound (refRound (refRound (refRound (refRound (refRound i)))))))

/-- The defaults of R5 around a given table (the table itself has no default): B = 1024,
STRICT_FIRST, counters present, 32 bits wide. -/
def Config.withDefaults (T : Table) : Config where
  table     := T
  maxScan   := 1024
  etxPolicy := .strictFirst
  counters  := .present
  cntW      := 32

/-- A configuration with every illegal parameter replaced by a legal one; a legal configuration is
left as it is (`Config.Legal.legalise_eq`), so every legal configuration is a value of it. -/
def Config.legalise (c : Config) : Config where
  table     := if c.table.Tab1 ∧ c.table.Tab2 then c.table else refTable
  maxScan   := max 1 c.maxScan
  etxPolicy := c.etxPolicy
  counters  := c.counters
  cntW      := max 1 (min 32 c.cntW)

/-- The parameters an instance is built with. FREE: it has no body, so nothing can be proved of any
of its values (spec/93_implementation_defined.md I1 to I4; log entry 1). -/
opaque Config.asBuilt : Config

/-- The instance that `exec` and `step` run: a configuration of which only legality is known. -/
def Config.chip : Config := Config.asBuilt.legalise

end Sys2Proof
end

