-- ==== Sys2Proof/Machine/State.lean ====
section
/-! DEFINITION. The state of FB and the ends of a step. `FrameBlock` is the record R20 of
spec/10_state.md: all that persists from one command to the next. `State` adds what stands around the
block: what its ports show it (the presented commands, the reset signal, the consumers' handshakes)
and the responses it has returned (R75; R12 makes them part of a run's observation). FB has no
addressed memory, no registers beyond these, no program counter, mode or flag (R30, R40). -/

namespace Sys2Proof.Machine

/-- The seven event counters, by the names of the table of R26. -/
inductive CounterName where
  | noise
  | frames
  | valid
  | missingDelimiter
  | checksumMismatch
  | malformedChecksum
  | frameTooLong
deriving DecidableEq, Repr

/-- The counter registers cnt[0..6] in index order (R26). A counter has CNT_W ≤ 32 bits and is held
in the low bits of a 32-bit field. -/
structure Counters where
  noise             : BitVec 32
  frames            : BitVec 32
  valid             : BitVec 32
  missingDelimiter  : BitVec 32
  checksumMismatch  : BitVec 32
  malformedChecksum : BitVec 32
  frameTooLong      : BitVec 32
deriving DecidableEq, Repr

/-- The diagnostic codes of R67; codes 6 and 7 are reserved and never produced (I8), so the type
excludes them. -/
inductive DiagCode where
  | valid
  | missingDelimiter
  | checksumMismatch
  | malformedChecksum
  | frameTooLong
  | noiseDropped
deriving DecidableEq, Repr

/-- The response statuses of R75; status 3 is reserved and never produced (I8). -/
inductive Status where
  | ok
  | errReservedOp
  | errBadIndex
deriving DecidableEq, Repr

/-- What a command returns (R75). -/
structure Response where
  status : Status
  data   : DataWord
deriving DecidableEq, Repr

/-- The state record of FB (R20). -/
structure FrameBlock where
  /-- The ByteStream: the partial frame under assembly (R21). Its length is the register `len` and the
  scan cursor (R22, R23); the cells of BUFMEM at `len` and above hold no value and are not here (R22). -/
  buf  : List Byte
  /-- The host CRC accumulator (R24). -/
  hacc : Byte
  /-- The event counters (R26). -/
  cnt  : Counters
  /-- The payload output trace (R27). -/
  out  : List (List Byte)
  /-- The diagnostic trace (R28). -/
  diag : List DiagCode
deriving DecidableEq, Repr

/-- What the environment shows FB at one instant. -/
inductive PortEvent where
  /-- A command word presented at the command port (R70). -/
  | command (w : CommandWord)
  /-- The reset signal (R240), with the command word presented at the same instant, if any (R241). -/
  | reset (presented : Option CommandWord)
deriving DecidableEq, Repr

/-- The machine: the block and its ports. -/
structure State extends FrameBlock where
  /-- What the environment shows next, in order; the head is at the ports now. Not a state element of
  R20: it stands for the host that drives the command port and the reset signal (R11; log entry 5). A
  reset is seen at the head alone, so one that stands behind a held command waits (log entry 15). -/
  port      : List PortEvent
  /-- The responses returned so far, oldest first (R12, R75). -/
  responses : List Response
  /-- The consumer of `out` accepts an entry (R254). -/
  outReady  : Bool
  /-- The consumer of `diag` accepts an entry (R254). -/
  diagReady : Bool
  /-- The consumer of responses accepts one (I11). -/
  respReady : Bool
deriving DecidableEq, Repr

/-- The reasons a step stops with a fault. There is none: no error condition stops FB or puts it into
a fault state (R211), and FB has no trap mechanism (R213). -/
inductive Fault
deriving DecidableEq, Repr

/-- The reasons a step refuses. -/
inductive Refusal where
  /-- An arm of `exec` without a meaning. No arm raises it. Safe: a refusal proves nothing of FB. -/
  | notModelled (mnemonic : String)
deriving DecidableEq, Repr

/-- Every counter at 0 (R32). -/
def Counters.zero : Counters := ⟨0, 0, 0, 0, 0, 0, 0⟩

/-- The reset values of R32. -/
def FrameBlock.reset : FrameBlock where
  buf  := []
  hacc := 0x00#8
  cnt  := Counters.zero
  out  := []
  diag := []

/-- The machine right after reset (R240): the block at its reset values, no command presented, no
response returned, and consumers that accept (DESIGN CHOICE, log entry 4). -/
def State.reset : State where
  toFrameBlock := FrameBlock.reset
  port      := []
  responses := []
  outReady  := true
  diagReady := true
  respReady := true

end Sys2Proof.Machine
end

