-- ==== Sys2Proof/Machine/Operands.lean ====
section
/-! DEFINITION. Operand forms and byte classes: the framing markers (R10, R61), hexadecimal digits in
and out (R63 to R65), slices of byte sequences (R7) and the counter selector of READ_CNT (R45). -/

namespace Sys2Proof.Machine

/-- Start marker (R10). -/
abbrev STX : Byte := 0x02#8
/-- End-of-payload marker (R10). -/
abbrev ETX : Byte := 0x03#8
/-- Terminator (R10). -/
abbrev TERM : Byte := 0x0D#8

/-- The classes of R61. -/
inductive ByteClass where
  | stx
  | etx
  | term
  | ordinary
deriving DecidableEq, Repr

/-- A byte's class, by its value alone (R61). -/
def byteClass (b : Byte) : ByteClass :=
  if b = STX then .stx else if b = ETX then .etx else if b = TERM then .term else .ordinary

/-- `hexval` of R63; `none` is the outcome BadHex. -/
def hexval (b : Byte) : Option Nibble :=
  let v := b.toNat
  if 0x30 ≤ v ∧ v ≤ 0x39 then some (BitVec.ofNat 4 (v - 0x30))
  else if 0x41 ≤ v ∧ v ≤ 0x46 then some (BitVec.ofNat 4 (v - 0x37))
  else if 0x61 ≤ v ∧ v ≤ 0x66 then some (BitVec.ofNat 4 (v - 0x57))
  else none

/-- The checksum byte of two digits, `{hexval(hi), hexval(lo)}`; `none` if either is BadHex (R64). -/
def hexPair (hi lo : Byte) : Option Byte :=
  match hexval hi, hexval lo with
  | some h, some l => some (h ++ l)
  | _, _ => none

/-- `H[k]` of R65: the upper-case digit character of a nibble. -/
def hexDigit (k : Nibble) : Byte :=
  if k.toNat ≤ 9 then BitVec.ofNat 8 (0x30 + k.toNat) else BitVec.ofNat 8 (0x41 + (k.toNat - 10))

/-- The lower-case digit character of a nibble (the second spelling of R106). -/
def hexDigitLower (k : Nibble) : Byte :=
  if k.toNat ≤ 9 then BitVec.ofNat 8 (0x30 + k.toNat) else BitVec.ofNat 8 (0x61 + (k.toNat - 10))

/-- Bits 7..4 of a byte. -/
def highNibble (v : Byte) : Nibble := v.extractLsb' 4 4

/-- Bits 3..0 of a byte. -/
def lowNibble (v : Byte) : Nibble := v.extractLsb' 0 4

/-- `render` of R65: high digit, then low digit, upper case. -/
def render (v : Byte) : Byte × Byte := (hexDigit (highNibble v), hexDigit (lowNibble v))

/-- `render` with the letters in lower case (R106). -/
def renderLower (v : Byte) : Byte × Byte := (hexDigitLower (highNibble v), hexDigitLower (lowNibble v))

/-- `s[i..j]`, both ends included, empty when j < i (R7). -/
def slice (s : List Byte) (i j : Nat) : List Byte := (s.drop i).take (j + 1 - i)

/-- The counter an index selects; indices 7..255 name none (R26, R45). -/
def counterOfIndex (b : Byte) : Option CounterName :=
  match b.toNat with
  | 0 => some .noise
  | 1 => some .frames
  | 2 => some .valid
  | 3 => some .missingDelimiter
  | 4 => some .checksumMismatch
  | 5 => some .malformedChecksum
  | 6 => some .frameTooLong
  | _ => none

/-- The index of a counter (R26). -/
def CounterName.index : CounterName → Nat
  | .noise => 0
  | .frames => 1
  | .valid => 2
  | .missingDelimiter => 3
  | .checksumMismatch => 4
  | .malformedChecksum => 5
  | .frameTooLong => 6

end Sys2Proof.Machine
end

