-- ==== Sys2Proof/Machine/Flags.lean ====
section
/-! DEFINITION. What stands in FB for condition flags: it has no flags register (R30), and a command's
outcome is its response status and data (R9, R75, R76) and the diagnostic code it logs (R67). -/

namespace Sys2Proof.Machine

/-- The 2-bit code of a status (R75). -/
def Status.code : Status → BitVec 2
  | .ok => 0
  | .errReservedOp => 1
  | .errBadIndex => 2

/-- The 3-bit code of a diagnostic (R67). -/
def DiagCode.code : DiagCode → BitVec 3
  | .valid => 0
  | .missingDelimiter => 1
  | .checksumMismatch => 2
  | .malformedChecksum => 3
  | .frameTooLong => 4
  | .noiseDropped => 5

/-- The results of a checksum comparison (R76, R105). -/
inductive VerifyResult where
  | isMatch
  | mismatch
  | badHex
deriving DecidableEq, Repr

/-- The 2-bit code of a verify result (R76). -/
def VerifyResult.code : VerifyResult → BitVec 2
  | .isMatch => 0
  | .mismatch => 1
  | .badHex => 2

/-- `respond(OK, d)` (R8, R75). -/
def respondOk (d : DataWord) : Response := ⟨.ok, d⟩

/-- An error response: its data is 0 (R75). -/
def respondErr (st : Status) : Response := ⟨st, 0⟩

/-- The data of CRC_FINAL: data[23:16] the high character, data[15:8] the low one, data[7:0] the
checksum byte, the rest 0 (R75). -/
def finalData (c : Byte) : DataWord := 0#8 ++ (render c).1 ++ (render c).2 ++ c

/-- The data of CRC_VERIFY: the result in data[1:0], the rest 0 (R75). -/
def verifyData (r : VerifyResult) : DataWord := r.code.setWidth 32

end Sys2Proof.Machine
end

