-- ==== Sys2Proof/Machine/Ops.lean ====
section
/-! DEFINITION. The operations the meanings share: the pseudocode primitives of R8, the checksum
functions of spec/40_crc8.md section 1, the recording of a classified event, reset, and the return of
a response.

EXCEPTIONS. FB has no trap entry and no trap return (R213): no state is saved, no mode or mask changes
and control goes to no vector. What the specification puts in that place is the recording of a
classified event (R210, R214), the one operation `FrameBlock.classify`; afterwards FB takes the next
command. -/

namespace Sys2Proof.Machine

/-! ## Registers and traces -/

/-- `buf <- s` (R8). -/
def FrameBlock.setBuf (fb : FrameBlock) (s : List Byte) : FrameBlock := { fb with buf := s }

/-- `hacc <- v` (R8). -/
def FrameBlock.setHacc (fb : FrameBlock) (v : Byte) : FrameBlock := { fb with hacc := v }

/-- `emit_out(p)` (R8, R27). -/
def FrameBlock.emitOut (fb : FrameBlock) (p : List Byte) : FrameBlock := { fb with out := fb.out ++ [p] }

/-- `emit_diag(c)` (R8, R28). -/
def FrameBlock.emitDiag (fb : FrameBlock) (d : DiagCode) : FrameBlock := { fb with diag := fb.diag ++ [d] }

/-- The register `len` = |buf|, which is also the scan cursor (R22, R23). -/
def FrameBlock.len (fb : FrameBlock) : Nat := fb.buf.length

/-- The cell of BUFMEM at an index: `none` at `len` and above, where cells hold no value (R22, R45). -/
def FrameBlock.bufCell (fb : FrameBlock) (i : Nat) : Option Byte := fb.buf[i]?

/-- The two derived states of the assembler's controller (R23). -/
inductive Controller where
  | idle
  | inFrame
deriving DecidableEq, Repr

/-- The controller's state, a view of `len` (R23). -/
def FrameBlock.controller (fb : FrameBlock) : Controller := if fb.len = 0 then .idle else .inFrame

/-! ## Counters -/

/-- The field of a counter. -/
def Counters.get (cs : Counters) : CounterName → BitVec 32
  | .noise => cs.noise
  | .frames => cs.frames
  | .valid => cs.valid
  | .missingDelimiter => cs.missingDelimiter
  | .checksumMismatch => cs.checksumMismatch
  | .malformedChecksum => cs.malformedChecksum
  | .frameTooLong => cs.frameTooLong

/-- The counters with one of them replaced. -/
def Counters.set (cs : Counters) (k : CounterName) (v : BitVec 32) : Counters :=
  match k with
  | .noise => { cs with noise := v }
  | .frames => { cs with frames := v }
  | .valid => { cs with valid := v }
  | .missingDelimiter => { cs with missingDelimiter := v }
  | .checksumMismatch => { cs with checksumMismatch := v }
  | .malformedChecksum => { cs with malformedChecksum := v }
  | .frameTooLong => { cs with frameTooLong := v }

/-- The value of a counter of `w` bits: the low `w` bits of its field (R26). -/
def Counters.value (cs : Counters) (w : Nat) (k : CounterName) : Nat := (cs.get k).toNat % 2 ^ w

/-- An increment modulo 2^w (R6, R26): at 2^w - 1 it gives 0. -/
def Counters.increment (cs : Counters) (w : Nat) (k : CounterName) : Counters :=
  cs.set k (BitVec.ofNat 32 (((cs.get k).toNat + 1) % 2 ^ w))

/-- The counters after `cnt[k] <- cnt[k] + 1`, which has no effect when COUNTERS = absent (R8, R26). -/
def Counters.bump (c : Config) (k : CounterName) (cs : Counters) : Counters :=
  match c.counters with
  | .present => cs.increment c.cntW k
  | .absent => cs

/-- `cnt[k] <- cnt[k] + 1` (R8). -/
def FrameBlock.count (c : Config) (k : CounterName) (fb : FrameBlock) : FrameBlock :=
  { fb with cnt := fb.cnt.bump c k }

/-- Recording a classified event: its counter and its diagnostic code (R210). -/
def FrameBlock.classify (c : Config) (k : CounterName) (d : DiagCode) (fb : FrameBlock) : FrameBlock :=
  (fb.count c k).emitDiag d

/-! ## Checksums -/

/-- `NOT8` (R6). -/
def not8 (v : Byte) : Byte := 0xFF#8 ^^^ v

/-- One fold step: the table entry at the accumulator XOR the byte (R100). -/
def foldStep (T : Table) (acc b : Byte) : Byte := T (acc ^^^ b)

/-- `fold_from` of R100. -/
def foldFrom (T : Table) (acc : Byte) : List Byte → Byte
  | [] => acc
  | b :: s => foldFrom T (foldStep T acc b) s

/-- `fold` of R100. -/
def fold (T : Table) (s : List Byte) : Byte := foldFrom T 0x00#8 s

/-- `compute` of R102: the complement of the fold. -/
def compute (T : Table) (s : List Byte) : Byte := not8 (fold T s)

/-- Comparing two digit characters with the complement of an accumulator; the digits are decoded
first (R105, R113). -/
def compareDigits (acc hi lo : Byte) : VerifyResult :=
  match hexPair hi lo with
  | none => .badHex
  | some v => if v = not8 acc then .isMatch else .mismatch

/-- `verify` of R105. -/
def verify (T : Table) (s : List Byte) (hi lo : Byte) : VerifyResult := compareDigits (fold T s) hi lo

/-! ## Reset and responses -/

/-- The reset signal: every element of R20 at its value of R32 (R240). The responses already returned
and the ports are no state elements of FB and stay (log entry 3). -/
def State.applyReset (s : State) : State := { s with toFrameBlock := FrameBlock.reset }

/-- The end of a command: the block's new record is written and the one response of R75 returned. -/
def complete (s : State) (r : FrameBlock × Response) : Host.Outcome State Fault Refusal :=
  .next { s with toFrameBlock := r.1, responses := s.responses ++ [r.2] }

end Sys2Proof.Machine
end

