-- ==== Sys2Proof/Machine/Validator.lean ====
section
/-! DEFINITION. The frame validator (spec/42_validator.md), which runs inside the INGEST step that
completes a candidate frame. Its accumulator `vacc` lives only inside one validation (R25): it is the
fold inside `verify`. -/

namespace Sys2Proof.Machine

/-- The results of R160. -/
inductive ValidationResult where
  | valid (payload : List Byte)
  | missingDelimiter
  | checksumMismatch
  | malformedChecksum
deriving DecidableEq, Repr

/-- The payload that a result hands downstream, if it has one (R160, R167). -/
def ValidationResult.payload? : ValidationResult → Option (List Byte)
  | .valid p => some p
  | .missingDelimiter => none
  | .checksumMismatch => none
  | .malformedChecksum => none

/-- The first ETX of a frame at an index i with 1 ≤ i ≤ n - 4, n its length (R161): the indices below
n - 3 are searched upwards. -/
def firstEtx (F : List Byte) : Option Nat :=
  (List.range (F.length - 3)).find? fun i => decide (1 ≤ i) && decide (F[i]? = some ETX)

/-- The byte of a frame at an index that lies inside it; the validator reads the digits only at
e + 1 and e + 2, which do (R162), so the value outside is never read. -/
def byteAt (F : List Byte) (i : Nat) : Byte := F.getD i 0x00#8

/-- The checks from step 3 of R160 on, for the first ETX at `e`: the two bytes after it are the
checksum digits and the bytes between STX and it are the payload (R162 to R165). -/
def checkDigits (T : Table) (F : List Byte) (e : Nat) : ValidationResult :=
  match verify T (slice F 1 (e - 1)) (byteAt F (e + 1)) (byteAt F (e + 2)) with
  | .badHex => .malformedChecksum
  | .mismatch => .checksumMismatch
  | .isMatch => .valid (slice F 1 (e - 1))

/-- `validate` of R160, its checks in the order of R166. -/
def validate (c : Config) (F : List Byte) : ValidationResult :=
  match firstEtx F with
  | none => .missingDelimiter
  | some e =>
    if c.etxPolicy = .strictFirst ∧ e ≠ F.length - 4 then .malformedChecksum
    else checkDigits c.table F e

/-- Recording a validation result (R167). -/
def recordResult (c : Config) (r : ValidationResult) (fb : FrameBlock) : FrameBlock :=
  match r with
  | .valid p => (fb.classify c .valid .valid).emitOut p
  | .missingDelimiter => fb.classify c .missingDelimiter .missingDelimiter
  | .checksumMismatch => fb.classify c .checksumMismatch .checksumMismatch
  | .malformedChecksum => fb.classify c .malformedChecksum .malformedChecksum

/-- `validate_and_emit` of R167. -/
def validateAndEmit (c : Config) (F : List Byte) (fb : FrameBlock) : FrameBlock :=
  recordResult c (validate c F) fb

end Sys2Proof.Machine
end

