-- ==== Sys2Proof/Machine/Assembler.lean ====
section
/-! DEFINITION. The frame assembler (spec/41_assembler.md): INGEST, CLEAR, and the source's chunked
algorithm `assembler_pass`, kept as the reference of R130 and R137. -/

namespace Sys2Proof.Machine

/-- What one ingested byte does to the assembler, by the arm of R131 that handles it. -/
inductive AssemblerEvent where
  /-- An STX while IDLE starts a frame attempt (R132). -/
  | opened
  /-- Any other byte while IDLE is dropped (R132). -/
  | noise
  /-- A TERM while IN_FRAME completes the candidate frame (R133). -/
  | frame (F : List Byte)
  /-- No TERM in the scan positions 1..B: the attempt is discarded (R134). -/
  | overrun
  /-- Any other byte while IN_FRAME joins the buffer (R135). -/
  | appended
deriving DecidableEq, Repr

/-- The assembler's part of R131: the buffer after byte `b`, and the event. -/
def assemble (B : Nat) (buf : List Byte) (b : Byte) : List Byte × AssemblerEvent :=
  if buf.length = 0 then
    if b = STX then ([STX], .opened) else ([], .noise)
  else if b = TERM then ([], .frame (buf ++ [TERM]))
  else if buf.length = B then ([], .overrun)
  else (buf ++ [b], .appended)

/-- What the event of one byte adds to the counters and traces (R131). -/
def handleEvent (c : Config) (ev : AssemblerEvent) (fb : FrameBlock) : FrameBlock :=
  match ev with
  | .opened => fb
  | .noise => fb.classify c .noise .noiseDropped
  | .frame F => validateAndEmit c F (fb.count c .frames)
  | .overrun => fb.classify c .frameTooLong .frameTooLong
  | .appended => fb

/-- INGEST (R131), one atomic step (R44). -/
def ingest (c : Config) (b : Byte) (fb : FrameBlock) : FrameBlock × Response :=
  let r := assemble c.maxScan fb.buf b
  (handleEvent c r.2 (fb.setBuf r.1), respondOk 0)

/-- CLEAR (R136). -/
def clear (fb : FrameBlock) : FrameBlock × Response := (fb.setBuf [], respondOk 0)

def execIngest (b : Byte) (s : State) : Host.Outcome State Fault Refusal :=
  complete s (ingest Config.chip b s.toFrameBlock)

def execClear (s : State) : Host.Outcome State Fault Refusal := complete s (clear s.toFrameBlock)

/-! ## Byte-serial feeding and the source's chunked pass -/

/-- The candidate frame of an event, if it has one. -/
def AssemblerEvent.frame? : AssemblerEvent → Option (List Byte)
  | .opened => none
  | .noise => none
  | .frame F => some F
  | .overrun => none
  | .appended => none

/-- Feeding a chunk byte by byte (R137): the buffer at the end and the events in order. -/
def feed (B : Nat) (buf : List Byte) : List Byte → List Byte × List AssemblerEvent
  | [] => (buf, [])
  | b :: chunk =>
    let r := assemble B buf b
    let rest := feed B r.1 chunk
    (rest.1, r.2 :: rest.2)

/-- The candidate frames of a byte-serial feed, in order. -/
def feedFrames (B : Nat) (buf chunk : List Byte) : List (List Byte) :=
  (feed B buf chunk).2.filterMap AssemblerEvent.frame?

/-- The result of the chunked pass (R130). -/
structure PassResult where
  buf     : List Byte
  frames  : List (List Byte)
  overrun : Bool
deriving DecidableEq, Repr

/-- The least i in 1..min(k, B) with buf[i] = TERM, where k = |buf| - 1 (R130). -/
def firstTerm (B : Nat) (buf : List Byte) : Option Nat :=
  (List.range (min (buf.length - 1) B + 1)).find? fun i => decide (1 ≤ i) && decide (buf[i]? = some TERM)

/-- The loop of R130 with a bound on its rounds. Each round that continues shortens the buffer, so
|buf| + 1 rounds are enough. -/
def passLoop (B : Nat) : Nat → List Byte → PassResult
  | 0, buf => ⟨buf, [], false⟩
  | _ + 1, [] => ⟨[], [], false⟩
  | rounds + 1, b :: rest =>
    if b ≠ STX then passLoop B rounds rest
    else match firstTerm B (b :: rest) with
      | some i =>
        let r := passLoop B rounds ((b :: rest).drop (i + 1))
        { r with frames := (b :: rest).take (i + 1) :: r.frames }
      | none => if B ≤ rest.length then ⟨[], [], true⟩ else ⟨b :: rest, [], false⟩

/-- `assembler_pass` of R130. -/
def assemblerPass (B : Nat) (buf0 chunk : List Byte) : PassResult :=
  passLoop B ((buf0 ++ chunk).length + 1) (buf0 ++ chunk)

/-- The source's `ingest` called on one chunk after another: each call starts from the buffer the last
one left, the frames stand in order, and `overrun` says whether any call discarded (R130, R138). -/
def passChunks (B : Nat) (buf : List Byte) : List (List Byte) → PassResult
  | [] => ⟨buf, [], false⟩
  | chunk :: chunks =>
    let r := assemblerPass B buf chunk
    let rest := passChunks B r.buf chunks
    ⟨rest.buf, r.frames ++ rest.frames, r.overrun || rest.overrun⟩

end Sys2Proof.Machine
end

