-- ==== Sys2Proof/Machine/Control.lean ====
section
/-! DEFINITION. The control commands of spec/43_control.md: NOP, READ_CNT and the reserved ops. -/

namespace Sys2Proof.Machine

/-- NOP (R190). -/
def nop (fb : FrameBlock) : FrameBlock × Response := (fb, respondOk 0)

/-- The response of READ_CNT (R192). -/
def readCntResponse (c : Config) (b : Byte) (cs : Counters) : Response :=
  match c.counters with
  | .absent => respondErr .errReservedOp
  | .present =>
    match counterOfIndex b with
    | none => respondErr .errBadIndex
    | some k => respondOk (BitVec.ofNat 32 (cs.value c.cntW k))

/-- READ_CNT (R192). -/
def readCnt (c : Config) (b : Byte) (fb : FrameBlock) : FrameBlock × Response :=
  (fb, readCntResponse c b fb.cnt)

/-- A reserved op (R193): a defined error response, no state change, for each op 0x8..0xF alike. -/
def reservedCommand (_op : OpField) (fb : FrameBlock) : FrameBlock × Response :=
  (fb, respondErr .errReservedOp)

def execNop (s : State) : Host.Outcome State Fault Refusal := complete s (nop s.toFrameBlock)

def execReadCnt (b : Byte) (s : State) : Host.Outcome State Fault Refusal :=
  complete s (readCnt Config.chip b s.toFrameBlock)

def execReserved (op : OpField) (s : State) : Host.Outcome State Fault Refusal :=
  complete s (reservedCommand op s.toFrameBlock)

end Sys2Proof.Machine
end

