-- ==== Sys2Proof/Machine/Crc.lean ====
section
/-! DEFINITION. The host CRC commands of spec/40_crc8.md section 4: CRC_INIT, CRC_UPDATE, CRC_FINAL and
CRC_VERIFY, over the host accumulator `hacc`. Each has the form of R12, a new record and a response
from a configuration and a record; its `exec` form runs at `Config.chip`. -/

namespace Sys2Proof.Machine

/-- CRC_INIT (R110). -/
def crcInit (fb : FrameBlock) : FrameBlock × Response := (fb.setHacc 0x00#8, respondOk 0)

/-- CRC_UPDATE (R111). -/
def crcUpdate (c : Config) (b : Byte) (fb : FrameBlock) : FrameBlock × Response :=
  (fb.setHacc (foldStep c.table fb.hacc b), respondOk 0)

/-- CRC_FINAL (R112). -/
def crcFinal (fb : FrameBlock) : FrameBlock × Response := (fb, respondOk (finalData (not8 fb.hacc)))

/-- CRC_VERIFY (R113): a BADHEX result is a normal response. -/
def crcVerify (a b : Byte) (fb : FrameBlock) : FrameBlock × Response :=
  (fb, respondOk (verifyData (compareDigits fb.hacc a b)))

def execCrcInit (s : State) : Host.Outcome State Fault Refusal := complete s (crcInit s.toFrameBlock)

def execCrcUpdate (b : Byte) (s : State) : Host.Outcome State Fault Refusal :=
  complete s (crcUpdate Config.chip b s.toFrameBlock)

def execCrcFinal (s : State) : Host.Outcome State Fault Refusal := complete s (crcFinal s.toFrameBlock)

def execCrcVerify (a b : Byte) (s : State) : Host.Outcome State Fault Refusal :=
  complete s (crcVerify a b s.toFrameBlock)

end Sys2Proof.Machine
end

