-- ==== Sys2Proof/Syntax.lean ====
section
/-! DEFINITION. The commands of FB, one constructor per row of spec/opcode_table.json (the operation
map R71 of spec/30_encoding.md). A constructor carries the operand bytes the map names for the row and
none of the fields the map says are ignored (R72). -/

namespace Sys2Proof

/-- The commands of the map R71. -/
inductive Instr where
  /-- NOP, op 0x0 (R190). -/
  | nop
  /-- INGEST, op 0x1: `b` is one received byte (R131). -/
  | ingest (b : Byte)
  /-- CLEAR, op 0x2 (R136). -/
  | clear
  /-- CRC_INIT, op 0x3 (R110). -/
  | crcInit
  /-- CRC_UPDATE, op 0x4: `b` is the byte to fold (R111). -/
  | crcUpdate (b : Byte)
  /-- CRC_FINAL, op 0x5 (R112). -/
  | crcFinal
  /-- CRC_VERIFY, op 0x6: `a` is the high digit character, `b` the low one (R113). -/
  | crcVerify (a b : Byte)
  /-- READ_CNT, op 0x7: `b` is the counter index (R192). -/
  | readCnt (b : Byte)
  /-- RESERVED, op 0x8..0xF: `op` is the operation field itself (R193). -/
  | reserved (op : OpField)
deriving DecidableEq, Repr

end Sys2Proof
end

