-- ==== Sys2Proof/Machine/Command.lean ====
section
/-! DEFINITION. The step function of R12, `Config -> State -> Command -> State × Response`, at any
configuration, and a run of commands. `exec` is this function at `Config.chip`
(`Laws.exec_eq_complete`). -/

namespace Sys2Proof.Machine

/-- The function `step` of R12. -/
def commandStep (c : Config) (i : Instr) (fb : FrameBlock) : FrameBlock × Response :=
  match i with
  | .nop => nop fb
  | .ingest b => ingest c b fb
  | .clear => clear fb
  | .crcInit => crcInit fb
  | .crcUpdate b => crcUpdate c b fb
  | .crcFinal => crcFinal fb
  | .crcVerify a b => crcVerify a b fb
  | .readCnt b => readCnt c b fb
  | .reserved op => reservedCommand op fb

/-- A run of commands from a record, left to right, with the responses in order (R12, R47). -/
def commandRun (c : Config) : List Instr → FrameBlock → FrameBlock × List Response
  | [], fb => (fb, [])
  | i :: is, fb =>
    let r := commandStep c i fb
    let rest := commandRun c is r.1
    (rest.1, r.2 :: rest.2)

/-! ## The pseudo-instructions of R74 -/

/-- INGEST_SEQ: one INGEST per byte (R74). -/
def ingestSeq (bs : List Byte) : List Instr := bs.map Instr.ingest

/-- The wire frame of R60 around a payload, its digits in the spelling `render` gives (R65). -/
def wireFrame (T : Table) (payload : List Byte) : List Byte :=
  [STX] ++ payload ++ [ETX, (render (compute T payload)).1, (render (compute T payload)).2, TERM]

/-- INGEST_FRAME: a correct frame around a text (R74). -/
def ingestFrame (T : Table) (payload : List Byte) : List Instr := ingestSeq (wireFrame T payload)

/-- CRC_SEQ: CRC_INIT, one CRC_UPDATE per byte, CRC_FINAL (R74). -/
def crcSeq (bs : List Byte) : List Instr := .crcInit :: bs.map Instr.crcUpdate ++ [.crcFinal]

/-- REPEAT: the enclosed lines n times (R74). -/
def repeatSeq (n : Nat) (is : List Instr) : List Instr := (List.replicate n is).flatten

end Sys2Proof.Machine
end

