-- ==== Sys2Proof/Machine/Dispatch.lean ====
section
/-! DEFINITION. The dispatch of a command to its meaning: one arm per constructor of `Instr`. -/

namespace Sys2Proof.Machine

def exec (i : Instr) (s : State) : Host.Outcome State Fault Refusal :=
  match i with
  | .nop => Sys2Proof.Machine.execNop s
  | .ingest b => Sys2Proof.Machine.execIngest b s
  | .clear => Sys2Proof.Machine.execClear s
  | .crcInit => Sys2Proof.Machine.execCrcInit s
  | .crcUpdate b => Sys2Proof.Machine.execCrcUpdate b s
  | .crcFinal => Sys2Proof.Machine.execCrcFinal s
  | .crcVerify a b => Sys2Proof.Machine.execCrcVerify a b s
  | .readCnt b => Sys2Proof.Machine.execReadCnt b s
  | .reserved op => Sys2Proof.Machine.execReserved op s

end Sys2Proof.Machine
end

