-- ==== Sys2Proof/WellFormed.lean ====
section
/-! DEFINITION. Which `Instr` terms are commands. Every operand byte is legal for every command: any
byte may be ingested or folded (R111, R131), any two characters may be verified (R113), and a counter
index of 7 or more is a defined error (R192). The one check is on RESERVED, whose operation field is
0x8..0xF (R71, R193). -/

namespace Sys2Proof

/-- The operation fields of the reserved row: mask 0x80000, match 0x80000 (R71). -/
abbrev reservedOp (op : OpField) : Bool := op.getLsbD 3

/-- The well-formedness check of a command. -/
def Instr.wf : Instr → Bool
  | .nop => true
  | .ingest _ => true
  | .clear => true
  | .crcInit => true
  | .crcUpdate _ => true
  | .crcFinal => true
  | .crcVerify _ _ => true
  | .readCnt _ => true
  | .reserved op => reservedOp op

/-- A command that the interface can carry. -/
abbrev Instr.WellFormed (i : Instr) : Prop := i.wf = true

end Sys2Proof
end

