-- ==== Sys2Proof/Decode.lean ====
section
/-! DEFINITION. Decoding and encoding of command words (spec/30_encoding.md R70 to R73). The decoder is
total on all 2^20 words: ignored fields are ignored and ops 0x8..0xF decode to the reserved command.
A command word has 20 bits and no length variant (R70). The `nbits` of the transfer functions below is
the host's count of the bits it writes out; log entries 9 and 14 say how counts other than 20 are read. -/

namespace Sys2Proof

/-- Bits 19..16 (R70). -/
def opField (w : CommandWord) : OpField := w.extractLsb' 16 4

/-- Bits 15..8, the first operand byte (R70). -/
def aField (w : CommandWord) : Byte := w.extractLsb' 8 8

/-- Bits 7..0, the second operand byte (R70). -/
def bField (w : CommandWord) : Byte := w.extractLsb' 0 8

/-- The word with the given fields (R70). -/
def packWord (op : OpField) (a b : Byte) : CommandWord := op ++ a ++ b

/-- The operation map R71, operands taken as raw bytes (R72). -/
def decode (w : CommandWord) : Instr :=
  match (opField w).toNat with
  | 0 => .nop
  | 1 => .ingest (bField w)
  | 2 => .clear
  | 3 => .crcInit
  | 4 => .crcUpdate (bField w)
  | 5 => .crcFinal
  | 6 => .crcVerify (aField w) (bField w)
  | 7 => .readCnt (bField w)
  | _ => .reserved (opField w)

/-- Why the command port takes no command from a transfer. -/
inductive TransferError where
  /-- The transfer has a bit set above bit 19, so it is no command word (R70: no other format and no
  length variant exist). -/
  | notACommandWord
deriving DecidableEq, Repr

/-- The command word of a transfer of `nbits` bits holding `v`: a command word is transferred whole,
with no byte order (R41, R42), so bit k of the transfer is bit k of the word. The spec has transfers of
exactly 20 bits alone (R70) and gives no other a meaning. DEDUCED (log entry 9): a wider one with a bit
set above bit 19 is no command word. DESIGN CHOICE (log entry 14): any other transfer that is not 20 bits
wide is read as the whole word of its low 20 bits. So a wider one whose bits above bit 19 are all 0, such
as the 24 bits in which the host writes a row, is the command of its low 20 bits, and a narrower one is
the word whose missing bits are 0, 8 bits of 0 being NOP. Bits of `v` from `nbits` up are no part of the
transfer. -/
def wordOfTransfer (nbits v : Nat) : Except TransferError CommandWord :=
  if v % 2 ^ nbits < 2 ^ 20 then .ok (BitVec.ofNat 20 (v % 2 ^ nbits)) else .error .notACommandWord

/-- Decoding of any transfer, total, refusing by name; widths other than 20 as `wordOfTransfer` reads
them (log entries 9 and 14). -/
def decodeTransfer (nbits v : Nat) : Except TransferError Instr :=
  (wordOfTransfer nbits v).map decode

/-- The host's view of the decoder on a row's word. -/
def decodeTableWord (nbits w : Nat) : Option Instr := (decodeTransfer nbits w).toOption

/-- The operation field of a command (R71). -/
def Instr.op : Instr → OpField
  | .nop => 0x0#4
  | .ingest _ => 0x1#4
  | .clear => 0x2#4
  | .crcInit => 0x3#4
  | .crcUpdate _ => 0x4#4
  | .crcFinal => 0x5#4
  | .crcVerify _ _ => 0x6#4
  | .readCnt _ => 0x7#4
  | .reserved op => op

/-- Encoding: the fields of R70, every ignored field 0 (R74). -/
def encode : Instr → CommandWord
  | .nop => packWord 0x0#4 0#8 0#8
  | .ingest b => packWord 0x1#4 0#8 b
  | .clear => packWord 0x2#4 0#8 0#8
  | .crcInit => packWord 0x3#4 0#8 0#8
  | .crcUpdate b => packWord 0x4#4 0#8 b
  | .crcFinal => packWord 0x5#4 0#8 0#8
  | .crcVerify a b => packWord 0x6#4 a b
  | .readCnt b => packWord 0x7#4 0#8 b
  | .reserved op => packWord op 0#8 0#8

/-- The bits of a word that its command uses: the operation field and the operand fields the map R71
does not call ignored. -/
def usedMask (op : OpField) : CommandWord :=
  match op.toNat with
  | 1 => 0xF00FF#20
  | 4 => 0xF00FF#20
  | 6 => 0xFFFFF#20
  | 7 => 0xF00FF#20
  | _ => 0xF0000#20

end Sys2Proof
end

