-- ==== Sys2Proof/Machine/Port.lean ====
section
/-! DEFINITION. The ports of FB: which command a presented word is, when a consumer holds FB, and what
is presented next. `step` only calls these. -/

namespace Sys2Proof.Machine

/-- The command of a presented word (R70 to R72). -/
def fetch (w : CommandWord) : Instr := decode w

/-- A consumer holds a command (R254, I11): its response, or an entry it would add to `out` or `diag`,
is not accepted, so FB does not complete the command. What stands behind it in `port`, a reset too,
waits with it (DESIGN CHOICE, log entry 15). -/
def State.held (s : State) (i : Instr) : Bool :=
  !s.respReady
    || !s.outReady && decide ((commandStep Config.chip i s.toFrameBlock).1.out ≠ s.out)
    || !s.diagReady && decide ((commandStep Config.chip i s.toFrameBlock).1.diag ≠ s.diag)

/-- The state once the event at the ports has passed. -/
def State.advancePort (s : State) : State := { s with port := s.port.tail }

/-- The state with an event placed at the ports, ahead of all others, and every consumer accepting. -/
def State.present (s : State) (p : PortEvent) : State :=
  { s with port := p :: s.port, outReady := true, diagReady := true, respReady := true }

end Sys2Proof.Machine
end

