-- ==== Sys2Proof/Machine/Step.lean ====
section
/-! DEFINITION. One step of the machine: what FB does with what its ports show (R11, R214, R251). -/

namespace Sys2Proof.Machine

/-- One step. With nothing at the ports FB holds its state (R225). The reset signal wins over a command
presented with it, which is dropped without a response (R214, R241), whatever the consumers accept (R240
gives reset no condition). A command a consumer holds does not complete and changes nothing (R254, I11);
any other is performed whole and leaves the port (R44, R251). The spec does not say whether a reset signal
raised after a command was held ends the wait. DESIGN CHOICE (log entry 15): a reset that stands behind a
held command in `port` is not taken while the command is held. -/
def step (s : State) : Host.Outcome State Fault Refusal :=
  match s.port with
  | [] => .next s
  | .reset _ :: _ => .next s.advancePort.applyReset
  | .command w :: _ => if s.held (fetch w) then .next s else exec (fetch w) s.advancePort

/-- The state in which the very next step performs the command of a transfer: the word is presented at
the command port and the consumers accept. A transfer that is no command word is not presented (log
entry 9); a narrower one, or a wider one whose bits above bit 19 are 0, is presented as the whole word of
its low 20 bits (DESIGN CHOICE, log entry 14). -/
def State.withFetchWord (s : State) (nbits w : Nat) : State :=
  match wordOfTransfer nbits w with
  | .ok cw => s.present (.command cw)
  | .error _ => s

end Sys2Proof.Machine
end

