-- ==== Sys2Proof/Safety.lean ====
section
/-! DEFINITION. What claims about FB speak of: candidate frames (R62), the invariants between commands
(R21, R26, R27), runs of commands through `exec`, and a safe run. -/

namespace Sys2Proof.Machine

/-- A candidate frame (R62): at least two bytes, STX first, TERM last, and no TERM between. -/
structure CandidateFrame (F : List Byte) : Prop where
  two      : 2 ≤ F.length
  first    : F[0]? = some STX
  last     : F[F.length - 1]? = some TERM
  noInner  : ∀ i, 1 ≤ i → i ≤ F.length - 2 → F[i]? ≠ some TERM

/-- Index `e` of a frame holds its first ETX among the indices 1..n-4 (R161). -/
structure FirstEtxAt (F : List Byte) (e : Nat) : Prop where
  low   : 1 ≤ e
  high  : e + 4 ≤ F.length
  isEtx : F[e]? = some ETX
  least : ∀ i, 1 ≤ i → i < e → F[i]? ≠ some ETX

/-- INV-BUF of R21 at scan bound `B`. -/
def InvBuf (B : Nat) (buf : List Byte) : Prop :=
  buf = [] ∨ (buf[0]? = some STX ∧ 1 ≤ buf.length ∧ buf.length ≤ B
    ∧ ∀ i, 1 ≤ i → i < buf.length → buf[i]? ≠ some TERM)

/-- Every counter fits its CNT_W bits (R26). -/
def CountersFit (w : Nat) (cs : Counters) : Prop := ∀ k, (cs.get k).toNat < 2 ^ w

/-- The sum invariant of R26, modulo 2^CNT_W: cnt[1] = cnt[2] + cnt[3] + cnt[4] + cnt[5]. -/
def CountersSum (w : Nat) (cs : Counters) : Prop :=
  cs.value w .frames =
    (cs.value w .valid + cs.value w .missingDelimiter + cs.value w .checksumMismatch
      + cs.value w .malformedChecksum) % 2 ^ w

/-- A payload that FB may hand downstream: 0..B-4 bytes (R27), no TERM and no ETX (R62, R168). -/
def PayloadFits (B : Nat) (p : List Byte) : Prop := p.length + 4 ≤ B ∧ TERM ∉ p ∧ ETX ∉ p

/-- The invariant of the state record between commands. -/
structure FrameBlock.Inv (c : Config) (fb : FrameBlock) : Prop where
  bufInv  : InvBuf c.maxScan fb.buf
  cntFit  : CountersFit c.cntW fb.cnt
  cntSum  : CountersSum c.cntW fb.cnt
  outFits : ∀ p ∈ fb.out, PayloadFits c.maxScan p

/-- The invariant of the machine: that of its record. -/
def State.Inv (s : State) : Prop := s.toFrameBlock.Inv Config.chip

/-- Two records that differ at most in their counters. -/
def FrameBlock.AgreeButCounters (fb fb' : FrameBlock) : Prop :=
  fb.buf = fb'.buf ∧ fb.hacc = fb'.hacc ∧ fb.out = fb'.out ∧ fb.diag = fb'.diag

/-- The bytes that the CRC_UPDATE commands of a sequence fold, in order (R114). -/
def updateBytes : List Instr → List Byte
  | [] => []
  | .crcUpdate b :: is => b :: updateBytes is
  | .nop :: is => updateBytes is
  | .ingest _ :: is => updateBytes is
  | .clear :: is => updateBytes is
  | .crcInit :: is => updateBytes is
  | .crcFinal :: is => updateBytes is
  | .crcVerify _ _ :: is => updateBytes is
  | .readCnt _ :: is => updateBytes is
  | .reserved _ :: is => updateBytes is

/-- A run of commands through `exec`, stopping at the first fault or refusal (R47: each command sees
every effect of every earlier one). -/
def execRun : List Instr → State → Host.Outcome State Fault Refusal
  | [], s => .next s
  | i :: is, s =>
    match exec i s with
    | .next t => execRun is t
    | .fault r => .fault r
    | .refused r => .refused r

/-- A safe run of `k` steps: it neither faults nor refuses (R211). -/
def SafeRun (k : Nat) (s : State) : Prop := ∃ t, Host.Core.run Sys2Proof.core k s = .next t

end Sys2Proof.Machine
end

