-- ==== Sys2Proof/Certificates/Slice0/Obligations.lean ====
section
/-! DEFINITION. The statements for the provers. `Config.chip` is an instance of which only legality is
known, so a statement about `exec` or `step` is one about every legal configuration; a statement that
takes `c : Config` holds at every configuration that meets its premises. -/

open Sys2Proof Sys2Proof.Machine

/-! ## Encoding -/

/-- Decode and encode agree on every well-formed command, and the encoder writes 0 in every ignored
field (R70 to R74). -/
def Obligations.DecodeOfEncodeIsTheCommand : Prop :=
  ∀ i : Instr, i.WellFormed → decode (encode i) = i ∧ encode i &&& ~~~(usedMask i.op) = 0#20

/-- Every word decodes to a well-formed command, and encoding that command gives the word back with its
ignored fields 0 (R72). -/
def Obligations.EncodeOfDecodeClearsIgnoredFields : Prop :=
  ∀ w : CommandWord, (decode w).WellFormed ∧ encode (decode w) = w &&& usedMask (opField w)

/-- The operation map of R71: per row, a word that matches the row's match under its mask is the row's
command, with the operands the row names taken from bits 15..8 and 7..0. -/
def Obligations.OperationMapDecodesEveryRow : Prop :=
  ∀ w : CommandWord,
    (w &&& 0xF0000#20 = 0x00000#20 → decode w = .nop) ∧
    (w &&& 0xF0000#20 = 0x10000#20 → decode w = .ingest (w.extractLsb' 0 8)) ∧
    (w &&& 0xF0000#20 = 0x20000#20 → decode w = .clear) ∧
    (w &&& 0xF0000#20 = 0x30000#20 → decode w = .crcInit) ∧
    (w &&& 0xF0000#20 = 0x40000#20 → decode w = .crcUpdate (w.extractLsb' 0 8)) ∧
    (w &&& 0xF0000#20 = 0x50000#20 → decode w = .crcFinal) ∧
    (w &&& 0xF0000#20 = 0x60000#20 → decode w = .crcVerify (w.extractLsb' 8 8) (w.extractLsb' 0 8)) ∧
    (w &&& 0xF0000#20 = 0x70000#20 → decode w = .readCnt (w.extractLsb' 0 8)) ∧
    (w &&& 0x80000#20 = 0x80000#20 → decode w = .reserved (w.extractLsb' 16 4))

/-- A few words of spec/95_test_vectors.md decode to the commands they stand for. -/
def Obligations.SampleWordsDecodeToTheirCommands : Prop :=
  decode 0x0ABCD#20 = .nop ∧ decode 0x1FF02#20 = .ingest 0x02#8 ∧ decode 0x40044#20 = .crcUpdate 0x44#8
    ∧ decode 0x66330#20 = .crcVerify 0x63#8 0x30#8 ∧ decode 0x70002#20 = .readCnt 0x02#8
    ∧ decode 0xF1234#20 = .reserved 0xF#4

/-! ## Hexadecimal digits -/

/-- Hexadecimal digit decoding (R63): the three ranges and their values, every other byte BadHex. -/
def Obligations.HexvalDecodesTheThreeDigitRanges : Prop :=
  ∀ b : Byte,
    (0x30#8 ≤ b → b ≤ 0x39#8 → (hexval b).map BitVec.toNat = some (b.toNat - 0x30)) ∧
    (0x41#8 ≤ b → b ≤ 0x46#8 → (hexval b).map BitVec.toNat = some (b.toNat - 0x37)) ∧
    (0x61#8 ≤ b → b ≤ 0x66#8 → (hexval b).map BitVec.toNat = some (b.toNat - 0x57)) ∧
    (b < 0x30#8 ∨ (0x39#8 < b ∧ b < 0x41#8) ∨ (0x46#8 < b ∧ b < 0x61#8) ∨ 0x66#8 < b → hexval b = none)

/-- The checksum byte of two digits (R64): the high digit shifted left by 4, OR the low digit; no value
when either digit is BadHex. -/
def Obligations.HexPairPutsTheFirstDigitInTheHighNibble : Prop :=
  ∀ hi lo : Byte,
    (∀ h l : Nibble, hexval hi = some h → hexval lo = some l →
      hexPair hi lo = some ((h.setWidth 8 <<< 4) ||| l.setWidth 8)) ∧
    (hexval hi = none ∨ hexval lo = none → hexPair hi lo = none)

/-- Rendering (R65): bits 7..4 then bits 3..0, each as its upper-case digit character, and `hexval` of
each rendered byte gives the nibble back. -/
def Obligations.RenderIsUpperCaseAndHexvalInvertsIt : Prop :=
  ∀ v : Byte,
    let H := fun k : Nat => if k ≤ 9 then 0x30 + k else 0x41 + (k - 10)
    (render v).1.toNat = H (v.toNat / 16) ∧ (render v).2.toNat = H (v.toNat % 16)
      ∧ hexval (render v).1 = some (v.extractLsb' 4 4) ∧ hexval (render v).2 = some (v.extractLsb' 0 4)
      ∧ hexPair (render v).1 (render v).2 = some v

/-! ## Checksums -/

/-- The checksum's laws for every table (R102). -/
def Obligations.ComputeIsTheComplementOfTheFold : Prop :=
  ∀ T : Table,
    (∀ s, compute T s = 0xFF#8 ^^^ fold T s) ∧ compute T [] = 0xFF#8
      ∧ (∀ b, compute T [b] = 0xFF#8 ^^^ T b)
      ∧ (∀ s t, compute T (s ++ t) = 0xFF#8 ^^^ foldFrom T (fold T s) t)
      ∧ (∀ s t, fold T s = fold T t → compute T s = compute T t)

/-- What the constraints of R103 give for the chip's table: the checksum of "D1" is 0xC0 (TAB-1) and no
two indices hold one entry (TAB-2). -/
def Obligations.ChipTableMeetsBothConstraints : Prop :=
  compute Config.chip.table [0x44#8, 0x31#8] = 0xC0#8 ∧ Function.Injective Config.chip.table

/-- Under TAB-2 any single-byte change of a sequence changes its checksum (R103). -/
def Obligations.SingleByteChangeChangesTheChecksum : Prop :=
  ∀ (T : Table) (s t : List Byte) (x y : Byte), T.Tab2 → x ≠ y →
    compute T (s ++ x :: t) ≠ compute T (s ++ y :: t)

/-- The generation rule of REF_TABLE gives the 256 entries listed in R104, and that table is a legal
one. -/
def Obligations.RefTableIsGeneratedByItsPolynomial : Prop :=
  (∀ i : Byte, refTable i = refGenerated i) ∧ refTable.Tab1 ∧ refTable.Tab2

/-- Verification (R105): BADHEX whenever a digit is not hexadecimal, whatever the sequence; otherwise
MATCH or MISMATCH by comparing the decoded byte with the checksum; digits that decode alike, such as the
two cases of a letter, verify alike. -/
def Obligations.VerifyChecksTheDigitsBeforeTheChecksum : Prop :=
  ∀ (T : Table) (s : List Byte) (hi lo : Byte),
    (hexval hi = none ∨ hexval lo = none → verify T s hi lo = .badHex) ∧
    (∀ h l : Nibble, hexval hi = some h → hexval lo = some l →
      verify T s hi lo = if (h.setWidth 8 <<< 4) ||| l.setWidth 8 = compute T s then .isMatch else .mismatch) ∧
    (∀ hi' lo' : Byte, hexval hi' = hexval hi → hexval lo' = hexval lo → verify T s hi' lo' = verify T s hi lo)

/-- The round trip of R106: the rendered checksum of any sequence verifies under any table, and so does
its lower-case spelling. -/
def Obligations.RenderedChecksumVerifies : Prop :=
  ∀ (T : Table) (s : List Byte),
    verify T s (render (compute T s)).1 (render (compute T s)).2 = .isMatch
      ∧ verify T s (renderLower (compute T s)).1 (renderLower (compute T s)).2 = .isMatch

/-! ## The commands: each completes, with exactly this effect -/

/-- NOP (R190). -/
def Obligations.NopOnlyResponds : Prop :=
  (∀ w : CommandWord, w.extractLsb' 16 4 = 0x0#4 → decode w = .nop) ∧
  ∀ s : State, exec .nop s = .next { s with responses := s.responses ++ [⟨.ok, 0⟩] }

/-- INGEST while IDLE (R132): an STX starts a frame attempt, any other byte is counted and logged as
noise; dropping is per byte, so k noise bytes give k increments and k diagnostic codes. -/
def Obligations.IngestWhileIdleOpensOrDropsNoise : Prop :=
  (∀ (b : Byte) (s : State), s.buf = [] →
    exec (.ingest b) s = .next
      (if b = 0x02#8 then { s with buf := [0x02#8], responses := s.responses ++ [⟨.ok, 0⟩] }
       else { s with cnt := s.cnt.bump Config.chip .noise, diag := s.diag ++ [.noiseDropped],
                     responses := s.responses ++ [⟨.ok, 0⟩] })) ∧
  ∀ (bs : List Byte) (s : State), s.buf = [] → 0x02#8 ∉ bs →
    execRun (ingestSeq bs) s = .next
      { s with cnt := (Counters.bump Config.chip .noise)^[bs.length] s.cnt,
               diag := s.diag ++ List.replicate bs.length .noiseDropped,
               responses := s.responses ++ List.replicate bs.length ⟨.ok, 0⟩ }

/-- INGEST of a TERM while IN_FRAME (R133, R167): the buffer is emptied, the candidate frame counted, and
its validation result counted, logged and, for a valid frame, its payload emitted, in the same step.
The frame has 2 to B + 1 bytes, a TERM at index B included. -/
def Obligations.IngestTermValidatesTheCandidateFrame : Prop :=
  ∀ s : State, s.buf ≠ [] →
    2 ≤ (s.buf ++ [0x0D#8]).length ∧
    (s.buf.length ≤ Config.chip.maxScan → (s.buf ++ [0x0D#8]).length ≤ Config.chip.maxScan + 1) ∧
    exec (.ingest 0x0D#8) s = .next
      (match validate Config.chip (s.buf ++ [0x0D#8]) with
       | .valid p =>
         { s with buf := [], cnt := (s.cnt.bump Config.chip .frames).bump Config.chip .valid,
                  out := s.out ++ [p], diag := s.diag ++ [.valid],
                  responses := s.responses ++ [⟨.ok, 0⟩] }
       | .missingDelimiter =>
         { s with buf := [], cnt := (s.cnt.bump Config.chip .frames).bump Config.chip .missingDelimiter,
                  diag := s.diag ++ [.missingDelimiter], responses := s.responses ++ [⟨.ok, 0⟩] }
       | .checksumMismatch =>
         { s with buf := [], cnt := (s.cnt.bump Config.chip .frames).bump Config.chip .checksumMismatch,
                  diag := s.diag ++ [.checksumMismatch], responses := s.responses ++ [⟨.ok, 0⟩] }
       | .malformedChecksum =>
         { s with buf := [], cnt := (s.cnt.bump Config.chip .frames).bump Config.chip .malformedChecksum,
                  diag := s.diag ++ [.malformedChecksum], responses := s.responses ++ [⟨.ok, 0⟩] })

/-- INGEST of any other byte while IN_FRAME (R134, R135): at len = B the whole attempt is discarded and
one FRAME_TOO_LONG counted and logged; below B the byte joins the buffer and nothing else is written. -/
def Obligations.IngestInFrameAppendsOrOverruns : Prop :=
  ∀ (b : Byte) (s : State), 1 ≤ s.len → s.len ≤ Config.chip.maxScan → b ≠ 0x0D#8 →
    exec (.ingest b) s = .next
      (if s.len = Config.chip.maxScan then
         { s with buf := [], cnt := s.cnt.bump Config.chip .frameTooLong, diag := s.diag ++ [.frameTooLong],
                  responses := s.responses ++ [⟨.ok, 0⟩] }
       else { s with buf := s.buf ++ [b], responses := s.responses ++ [⟨.ok, 0⟩] })

/-- CLEAR (R136): the partial frame is dropped and nothing else changes. -/
def Obligations.ClearEmptiesOnlyTheBuffer : Prop :=
  (∀ w : CommandWord, w.extractLsb' 16 4 = 0x2#4 → decode w = .clear) ∧
  ∀ s : State, exec .clear s = .next { s with buf := [], responses := s.responses ++ [⟨.ok, 0⟩] }

/-- CRC_INIT (R110). -/
def Obligations.CrcInitZeroesTheAccumulator : Prop :=
  (∀ w : CommandWord, w.extractLsb' 16 4 = 0x3#4 → decode w = .crcInit) ∧
  ∀ s : State, exec .crcInit s = .next { s with hacc := 0x00#8, responses := s.responses ++ [⟨.ok, 0⟩] }

/-- CRC_UPDATE (R111). -/
def Obligations.CrcUpdateFoldsOneByte : Prop :=
  (∀ w : CommandWord, w.extractLsb' 16 4 = 0x4#4 → decode w = .crcUpdate (w.extractLsb' 0 8)) ∧
  ∀ (b : Byte) (s : State), exec (.crcUpdate b) s = .next
    { s with hacc := Config.chip.table (s.hacc ^^^ b), responses := s.responses ++ [⟨.ok, 0⟩] }

/-- CRC_FINAL (R112): the complement of the accumulator, rendered in upper case, and no state change;
with the accumulator at 0 the data is 0x004646FF. -/
def Obligations.CrcFinalReturnsTheRenderedComplement : Prop :=
  (∀ w : CommandWord, w.extractLsb' 16 4 = 0x5#4 → decode w = .crcFinal) ∧
  (∀ s : State,
    let c : Byte := 0xFF#8 ^^^ s.hacc
    let d : DataWord := 0x00#8 ++ (render c).1 ++ (render c).2 ++ c
    exec .crcFinal s = .next { s with responses := s.responses ++ [⟨.ok, d⟩] }) ∧
  ∀ s : State, s.hacc = 0x00#8 →
    exec .crcFinal s = .next { s with responses := s.responses ++ [⟨.ok, 0x004646FF#32⟩] }

/-- CRC_VERIFY (R113): 2 when a digit is not hexadecimal, else 0 on a match and 1 on a mismatch, with
status OK and no state change. -/
def Obligations.CrcVerifyReturnsTheResultCode : Prop :=
  (∀ w : CommandWord, w.extractLsb' 16 4 = 0x6#4 →
    decode w = .crcVerify (w.extractLsb' 8 8) (w.extractLsb' 0 8)) ∧
  ∀ (a b : Byte) (s : State), exec (.crcVerify a b) s = .next
    { s with responses := s.responses ++ [⟨.ok,
        match hexval a, hexval b with
        | some h, some l => if (h.setWidth 8 <<< 4) ||| l.setWidth 8 = 0xFF#8 ^^^ s.hacc then 0#32 else 1#32
        | _, _ => 2#32⟩] }

/-- READ_CNT (R192): the counter's value in CNT_W bits, ERR_BAD_INDEX for an index of 7 or more,
ERR_RESERVED_OP when the counters are absent; no state change. -/
def Obligations.ReadCntReturnsTheCounter : Prop :=
  (∀ w : CommandWord, w.extractLsb' 16 4 = 0x7#4 → decode w = .readCnt (w.extractLsb' 0 8)) ∧
  (∀ (b : Byte) (s : State), 7 ≤ b.toNat → exec (.readCnt b) s = .next
    { s with responses := s.responses ++
        [if Config.chip.counters = .absent then ⟨.errReservedOp, 0⟩ else ⟨.errBadIndex, 0⟩] }) ∧
  ∀ (k : CounterName) (s : State), exec (.readCnt (BitVec.ofNat 8 k.index)) s = .next
    { s with responses := s.responses ++
        [if Config.chip.counters = .absent then ⟨.errReservedOp, 0⟩
         else ⟨.ok, BitVec.ofNat 32 ((s.cnt.get k).toNat % 2 ^ Config.chip.cntW)⟩] }

/-- A reserved op (R193): any word with bit 19 set returns ERR_RESERVED_OP and changes no state. -/
def Obligations.ReservedOpOnlyRespondsWithAnError : Prop :=
  (∀ w : CommandWord, w.getLsbD 19 = true → ∃ op, decode w = .reserved op) ∧
  ∀ (op : OpField) (s : State), exec (.reserved op) s = .next
    { s with responses := s.responses ++ [⟨.errReservedOp, 0⟩] }

/-! ## What holds of every command -/

/-- One response per command (R75): the status codes, data 0 and no state change on every error, and
the data layout per command. -/
def Obligations.EveryCommandReturnsOneResponse : Prop :=
  Status.ok.code = 0#2 ∧ Status.errReservedOp.code = 1#2 ∧ Status.errBadIndex.code = 2#2 ∧
  ∀ (i : Instr) (s : State), ∃ t r, exec i s = .next t ∧ t.responses = s.responses ++ [r]
    ∧ r.status.code ≠ 3#2 ∧ (r.status ≠ .ok → r.data = 0 ∧ t.toFrameBlock = s.toFrameBlock)
    ∧ match i with
      | .crcFinal => r.status = .ok ∧ r.data.extractLsb' 24 8 = 0#8
          ∧ r.data.extractLsb' 16 8 = (render (not8 s.hacc)).1
          ∧ r.data.extractLsb' 8 8 = (render (not8 s.hacc)).2
          ∧ r.data.extractLsb' 0 8 = not8 s.hacc
      | .crcVerify a b => r.status = .ok ∧ r.data.extractLsb' 2 30 = 0#30
          ∧ r.data.extractLsb' 0 2 = (compareDigits s.hacc a b).code
      | .readCnt b =>
          (r.status = .errReservedOp ↔ Config.chip.counters = .absent)
          ∧ (r.status = .errBadIndex ↔ Config.chip.counters = .present ∧ 7 ≤ b.toNat)
          ∧ (∀ k : CounterName, r.status = .ok → b.toNat = k.index →
              r.data.toNat = s.cnt.value Config.chip.cntW k)
          ∧ r.data.toNat < 2 ^ Config.chip.cntW
      | .reserved _ => r.status = .errReservedOp
      | _ => r.status = .ok ∧ r.data = 0

/-- `hacc` is written by CRC_INIT and CRC_UPDATE alone (R24). -/
def Obligations.OnlyCrcInitAndCrcUpdateWriteHacc : Prop :=
  ∀ (i : Instr) (s t : State), exec i s = .next t →
    match i with
    | .crcInit => t.hacc = 0x00#8
    | .crcUpdate b => t.hacc = Config.chip.table (s.hacc ^^^ b)
    | _ => t.hacc = s.hacc

/-- The buffer is written by INGEST and CLEAR alone: under any other command every cell of BUFMEM reads
as before (R21, R22). -/
def Obligations.OnlyIngestAndClearWriteTheBuffer : Prop :=
  ∀ (i : Instr) (s t : State), exec i s = .next t → (∀ b, i ≠ .ingest b) → i ≠ .clear →
    ∀ n, t.bufCell n = s.bufCell n

/-- At most one classified event per command (R214): the diagnostic trace grows by at most one code,
under INGEST alone, and the payload trace grows by one entry exactly when that code is VALID. -/
def Obligations.AtMostOneEventPerCommand : Prop :=
  ∀ (i : Instr) (s t : State), exec i s = .next t →
    (t.diag = s.diag ∧ t.out = s.out) ∨
    (∃ b, i = .ingest b) ∧
      ((∃ p, t.diag = s.diag ++ [.valid] ∧ t.out = s.out ++ [p]) ∨
       (∃ d, d ≠ .valid ∧ t.diag = s.diag ++ [d] ∧ t.out = s.out))

/-- An increment (R26): the named counter goes up by one modulo 2^CNT_W, 2^CNT_W - 1 giving 0, and the
others keep their values; with the counters absent nothing changes. -/
def Obligations.CounterIncrementWrapsAtItsWidth : Prop :=
  ∀ (c : Config) (k : CounterName) (cs : Counters), c.cntW ≤ 32 →
    (c.counters = .present →
      (cs.bump c k).value c.cntW k = (cs.value c.cntW k + 1) % 2 ^ c.cntW
        ∧ (cs.value c.cntW k = 2 ^ c.cntW - 1 → (cs.bump c k).value c.cntW k = 0)
        ∧ ∀ j, j ≠ k → (cs.bump c k).get j = cs.get j) ∧
    (c.counters = .absent → cs.bump c k = cs)

/-- The traces are write-only (R27, R28): what a command does to the rest of the record, what it
appends to the traces and what it answers do not depend on what the traces hold. -/
def Obligations.TracesAreNeverRead : Prop :=
  ∀ (c : Config) (i : Instr) (buf : List Byte) (hacc : Byte) (cnt : Counters),
    ∃ (buf' : List Byte) (hacc' : Byte) (cnt' : Counters) (os : List (List Byte)) (ds : List DiagCode)
      (r : Response), ∀ out diag,
      commandStep c i ⟨buf, hacc, cnt, out, diag⟩ = (⟨buf', hacc', cnt', out ++ os, diag ++ ds⟩, r)

/-- The counters cannot change behaviour (R26): two configurations that differ at most in COUNTERS and
CNT_W, run on the same commands from records that differ at most in their counters, give the same
buffer, accumulator and traces, and the same response to every command but READ_CNT. -/
def Obligations.CountersCannotChangeBehaviour : Prop :=
  ∀ (c c' : Config) (is : List Instr) (fb fb' : FrameBlock),
    c.table = c'.table → c.maxScan = c'.maxScan → c.etxPolicy = c'.etxPolicy → fb.AgreeButCounters fb' →
    (commandRun c is fb).1.AgreeButCounters (commandRun c' is fb').1 ∧
    ∀ k : Nat, (∀ b, is[k]? ≠ some (Instr.readCnt b)) → (commandRun c is fb).2[k]? = (commandRun c' is fb').2[k]?

/-- The host sequence (R114): CRC_INIT, then CRC_UPDATEs among any commands but another CRC_INIT,
leaves the fold of the updated bytes; CRC_FINAL then returns their checksum and its rendering, and
CRC_VERIFY the result of `verify`. -/
def Obligations.HostSequenceComputesTheChecksum : Prop :=
  ∀ (is : List Instr) (s : State), .crcInit ∉ is →
    let T := Config.chip.table
    let bs := updateBytes is
    ∃ t, execRun (.crcInit :: is) s = .next t ∧ t.hacc = fold T bs
      ∧ (∃ u d, exec .crcFinal t = .next u ∧ u.responses = t.responses ++ [⟨.ok, d⟩]
          ∧ d.extractLsb' 0 8 = compute T bs
          ∧ d.extractLsb' 16 8 = (render (compute T bs)).1 ∧ d.extractLsb' 8 8 = (render (compute T bs)).2)
      ∧ ∀ hi lo, ∃ u d, exec (.crcVerify hi lo) t = .next u ∧ u.responses = t.responses ++ [⟨.ok, d⟩]
          ∧ d.extractLsb' 0 2 = (verify T bs hi lo).code

/-- The pseudo-instruction CRC_SEQ (R74) is the contract `compute`: from every record it leaves the fold
of its bytes in `hacc`, changes nothing else, and its last response is CRC_FINAL's for their checksum. -/
def Obligations.CrcSeqComputesTheChecksum : Prop :=
  ∀ (c : Config) (bs : List Byte) (fb : FrameBlock),
    commandRun c (crcSeq bs) fb =
      ({ fb with hacc := fold c.table bs },
       List.replicate (bs.length + 1) ⟨.ok, 0⟩ ++ [⟨.ok, finalData (compute c.table bs)⟩])

/-! ## The validator -/

/-- The validator's decision (R161 to R166): no ETX at an index 1..n-4, then under STRICT_FIRST a first
ETX before n-4, then a digit that is not hexadecimal, then the checksum, in this order; the digits are
the two bytes after the first ETX and always inside the frame, and the payload is what stands between
STX and that ETX. -/
def Obligations.ValidatorChecksInOrder : Prop :=
  ∀ (c : Config) (F : List Byte),
    ((∀ i, 1 ≤ i → i + 4 ≤ F.length → F[i]? ≠ some 0x03#8) → validate c F = .missingDelimiter) ∧
    ∀ e, FirstEtxAt F e →
      (c.etxPolicy = .strictFirst → e + 4 ≠ F.length → validate c F = .malformedChecksum) ∧
      ((c.etxPolicy = .strictFirst → e + 4 = F.length) →
        ∃ hi lo, F[e + 1]? = some hi ∧ F[e + 2]? = some lo ∧
          (hexval hi = none ∨ hexval lo = none → validate c F = .malformedChecksum) ∧
          ∀ h l : Nibble, hexval hi = some h → hexval lo = some l →
            validate c F =
              if (h.setWidth 8 <<< 4) ||| l.setWidth 8 = compute c.table (slice F 1 (e - 1))
              then .valid (slice F 1 (e - 1)) else .checksumMismatch)

/-- Lengths and contents of a valid payload (R168), and the empty payload under every table. -/
def Obligations.ValidPayloadIsBoundedAndUnframed : Prop :=
  (∀ (c : Config) (F p : List Byte), CandidateFrame F → F.length ≤ c.maxScan + 1 →
    validate c F = .valid p →
    p.length + 5 ≤ F.length ∧ p.length + 4 ≤ c.maxScan
      ∧ (c.etxPolicy = .strictFirst → p.length + 5 = F.length) ∧ 0x0D#8 ∉ p ∧ 0x03#8 ∉ p) ∧
  ∀ (c : Config) (hi lo : Byte), hi = 0x46#8 ∨ hi = 0x66#8 → lo = 0x46#8 ∨ lo = 0x66#8 →
    validate c [0x02#8, 0x03#8, hi, lo, 0x0D#8] = .valid []

/-- Minimum lengths (R69): a frame of fewer than 5 bytes is MissingDelimiter, `02 0D` is a candidate
frame, and `02 03 46 46 0D` validates with an empty payload under every configuration. -/
def Obligations.ShortestFrames : Prop :=
  CandidateFrame [0x02#8, 0x0D#8]
    ∧ (∀ (c : Config) (F : List Byte), F.length < 5 → validate c F = .missingDelimiter)
    ∧ ∀ c : Config, validate c [0x02#8, 0x03#8, 0x46#8, 0x46#8, 0x0D#8] = .valid []

/-- The frame of the source's own example (R103, TAB-1): under every legal configuration "D1" with the
digits C0, in either case, is valid, and with C1 a mismatch. -/
def Obligations.SourceFrameValidatesUnderEveryTable : Prop :=
  ∀ c : Config, c.Legal →
    validate c [0x02#8, 0x44#8, 0x31#8, 0x03#8, 0x43#8, 0x30#8, 0x0D#8] = .valid [0x44#8, 0x31#8]
      ∧ validate c [0x02#8, 0x44#8, 0x31#8, 0x03#8, 0x63#8, 0x30#8, 0x0D#8] = .valid [0x44#8, 0x31#8]
      ∧ validate c [0x02#8, 0x44#8, 0x31#8, 0x03#8, 0x43#8, 0x31#8, 0x0D#8] = .checksumMismatch

/-- The mutation property (R103, TAB-2): changing one payload byte of a valid frame without recomputing
its checksum makes the frame invalid; under FIRST_LOOSE for changes to any byte but ETX. -/
def Obligations.MutatedPayloadNeverValidates : Prop :=
  ∀ (c : Config) (F p : List Byte) (i : Nat) (x : Byte),
    c.table.Tab2 → validate c F = .valid p → 1 ≤ i → i ≤ p.length → F[i]? ≠ some x →
    c.etxPolicy = .strictFirst ∨ x ≠ 0x03#8 →
    ∀ q, validate c (F.set i x) ≠ .valid q

/-! ## The assembler -/

/-- What the assembler emits is a candidate frame of 2..B+1 bytes, and it leaves the buffer empty (R62,
R68, R133). -/
def Obligations.EmittedFramesAreCandidateFrames : Prop :=
  ∀ (B : Nat) (buf buf' F : List Byte) (b : Byte), InvBuf B buf → assemble B buf b = (buf', .frame F) →
    CandidateFrame F ∧ 2 ≤ F.length ∧ F.length ≤ B + 1 ∧ buf' = []

/-- Byte classes decide the assembler's roles (R61): STX starts a frame when IDLE and is ordinary inside
one, TERM ends a frame when IN_FRAME and is noise when IDLE, and every other byte, ETX among them, is
ordinary to the assembler. -/
def Obligations.ByteClassesDecideTheAssemblersRoles : Prop :=
  ∀ b : Byte,
    (byteClass b = .stx ↔ b = 0x02#8) ∧ (byteClass b = .etx ↔ b = 0x03#8) ∧ (byteClass b = .term ↔ b = 0x0D#8) ∧
    (∀ B, ((assemble B [] b).2 = .opened ↔ byteClass b = .stx) ∧ ((assemble B [] b).2 = .noise ↔ byteClass b ≠ .stx)) ∧
    ∀ B buf, buf ≠ [] → ((assemble B buf b).2 = .frame (buf ++ [0x0D#8]) ↔ byteClass b = .term) ∧
      (byteClass b ≠ .term → (assemble B buf b).2 = if buf.length = B then .overrun else .appended)

/-- A byte-serial feed of INGEST commands is the assembler's feed: it ends with its buffer, and its
events, in order, are what reaches the counters and traces (R137, R131). -/
def Obligations.IngestSequenceIsTheAssemblersFeed : Prop :=
  ∀ (c : Config) (chunk : List Byte) (fb : FrameBlock),
    (commandRun c (ingestSeq chunk) fb).1 =
      ((feed c.maxScan fb.buf chunk).2.foldl (fun f ev => handleEvent c ev f) fb).setBuf
        (feed c.maxScan fb.buf chunk).1

/-- R137 (a): where the chunked pass makes no overrun discard, the byte-serial feed emits the same
candidate frames in the same order and ends with the same buffer. -/
def Obligations.FeedEqualsChunkedPassWithoutOverrun : Prop :=
  ∀ (B : Nat) (buf chunk : List Byte), 1 ≤ B → InvBuf B buf → (assemblerPass B buf chunk).overrun = false →
    feedFrames B buf chunk = (assemblerPass B buf chunk).frames
      ∧ (feed B buf chunk).1 = (assemblerPass B buf chunk).buf

/-- R137 (b): where the chunked pass discards, the two agree up to and including the byte at which the
byte-serial feed first discards; the feed then carries on from IDLE with the rest, which the pass
throws away. -/
def Obligations.FeedAndChunkedPassPartAtTheOverrun : Prop :=
  ∀ (B : Nat) (buf chunk : List Byte), 1 ≤ B → InvBuf B buf → (assemblerPass B buf chunk).overrun = true →
    ∃ pre b post, chunk = pre ++ b :: post
      ∧ .overrun ∉ (feed B buf pre).2
      ∧ assemble B (feed B buf pre).1 b = ([], .overrun)
      ∧ feedFrames B buf (pre ++ [b]) = (assemblerPass B buf chunk).frames
      ∧ (assemblerPass B buf chunk).buf = []
      ∧ feed B buf chunk = ((feed B [] post).1, (feed B buf (pre ++ [b])).2 ++ (feed B [] post).2)

/-- Determinism under splitting (R138, R137 (a)): the source's `assembler_pass` called chunk after chunk
discards exactly when it does on the whole stream, and where it makes no overrun discard the frames and
the buffer are those of the whole stream; ingesting the chunks then leaves that buffer and hands on the
valid payloads of those frames. A stream of candidate frames of at most B + 1 bytes, however split,
makes no discard and gives exactly its frames. -/
def Obligations.SplittingAStreamChangesNothing : Prop :=
  ∀ (c : Config) (chunks : List (List Byte)) (fb : FrameBlock), 1 ≤ c.maxScan → InvBuf c.maxScan fb.buf →
    let whole := assemblerPass c.maxScan fb.buf chunks.flatten
    let t := (commandRun c (chunks.flatMap ingestSeq) fb).1
    (passChunks c.maxScan fb.buf chunks).overrun = whole.overrun ∧
    (whole.overrun = false →
      passChunks c.maxScan fb.buf chunks = whole
        ∧ t.buf = whole.buf
        ∧ t.out = fb.out ++ whole.frames.filterMap fun F => (validate c F).payload?) ∧
    ∀ Fs : List (List Byte), fb.buf ++ chunks.flatten = Fs.flatten →
      (∀ F ∈ Fs, CandidateFrame F ∧ F.length ≤ c.maxScan + 1) → whole = ⟨[], Fs, false⟩

/-- Noise resilience (R132, R138): garbage without an STX, fed from IDLE, is dropped byte by byte, and
what follows is handled as if it had come first. -/
def Obligations.GarbageWithoutStxIsDropped : Prop :=
  ∀ (B : Nat) (garbage rest : List Byte), 0x02#8 ∉ garbage →
    feed B [] (garbage ++ rest) =
      ((feed B [] rest).1, List.replicate garbage.length .noise ++ (feed B [] rest).2)

/-- Bound enforcement (R134, R138): after an STX, fewer than B bytes without a TERM are kept; the B-th
discards the attempt, and no frame is emitted. -/
def Obligations.AttemptIsDiscardedAtTheBound : Prop :=
  ∀ (B : Nat) (xs : List Byte), 1 ≤ B → 0x0D#8 ∉ xs →
    (xs.length < B → feed B [] (0x02#8 :: xs) = (0x02#8 :: xs, .opened :: List.replicate xs.length .appended)) ∧
    (xs.length = B → feed B [] (0x02#8 :: xs)
      = ([], .opened :: List.replicate (B - 1) .appended ++ [.overrun]))

/-- Every well-formed wire frame is accepted (R60, R66): under any configuration, ingesting from IDLE
the wire frame of R60 around a payload without TERM and ETX, of at most B - 4 bytes, hands exactly that
payload downstream, logs VALID, counts one frame and one valid frame, and leaves FB in IDLE. -/
def Obligations.WireFrameDeliversItsPayload : Prop :=
  ∀ (c : Config) (p : List Byte) (fb : FrameBlock),
    fb.buf = [] → 0x0D#8 ∉ p → 0x03#8 ∉ p → p.length + 4 ≤ c.maxScan →
    commandRun c (ingestFrame c.table p) fb =
      ({ fb with cnt := (fb.cnt.bump c .frames).bump c .valid, out := fb.out ++ [p],
                 diag := fb.diag ++ [.valid] },
       List.replicate (p.length + 5) ⟨.ok, 0⟩)

/-! ## Reset, the ports and whole-machine rules -/

/-- The reset values of R32. -/
def Obligations.ResetValuesAreThoseOfTheTable : Prop :=
  State.reset.buf = [] ∧ State.reset.len = 0 ∧ State.reset.controller = .idle
    ∧ (∀ n, State.reset.bufCell n = none) ∧ State.reset.hacc = 0x00#8
    ∧ (∀ k, State.reset.cnt.get k = 0) ∧ State.reset.out = [] ∧ State.reset.diag = []

/-- The reset signal (R240, R241): it sets every state element to its reset value, whatever was in
progress, and a command presented with it is not performed and gives no response. That the responses
already returned stay is the model's choice, log entry 3; that the signal and the command presented with
it are one event at the head of the port's list, which passes, is the model's choice, log entry 5. -/
def Obligations.ResetSignalWinsOverThePresentedCommand : Prop :=
  ∀ (s : State) (presented : Option CommandWord) (rest : List PortEvent),
    s.port = .reset presented :: rest →
    step s = .next { s with
      buf := [], hacc := 0x00#8, cnt := ⟨0, 0, 0, 0, 0, 0, 0⟩, out := [], diag := [], port := rest }

/-- A step with nothing presented holds the state (R225; that an idle port is a step, and that it is an
empty list, are the model's choices, log entries 2 and 5). -/
def Obligations.IdlePortHoldsTheState : Prop := ∀ s : State, s.port = [] → step s = .next s

/-- A step runs the decoded command: a presented word whose consumers accept is taken from the port and
performed (R44, R47, R251; the port's list and the consumers' levels as state are the model's choices,
log entries 5 and 4). -/
def Obligations.StepRunsThePresentedCommand : Prop :=
  ∀ (s : State) (w : CommandWord) (rest : List PortEvent),
    s.port = .command w :: rest → s.outReady = true → s.diagReady = true → s.respReady = true →
    step s = exec (decode w) { s with port := rest }

/-- Flow control (R251, R254): the presented command would complete in some state `t`; the step is `t`
when the consumers accept its response and whatever it adds to the traces, and otherwise changes
nothing, the command still presented (the handshakes and the port's list as state, and that a reset later
in that list waits behind a held command, are the model's choices, log entries 4, 5 and 15). -/
def Obligations.UnacceptedEntryHoldsTheCommand : Prop :=
  ∀ (s : State) (w : CommandWord) (rest : List PortEvent), s.port = .command w :: rest →
    ∃ t, exec (decode w) { s with port := rest } = .next t ∧
      step s = if s.respReady = true ∧ (s.outReady = true ∨ t.out = s.out)
          ∧ (s.diagReady = true ∨ t.diag = s.diag) then .next t else .next s

/-- No error condition stops FB (R211): from every state any number of steps neither faults nor
refuses. -/
def Obligations.NoRunEverStops : Prop := ∀ (k : Nat) (s : State), SafeRun k s

/-- The invariant of the machine holds at reset. -/
def Obligations.InvariantHoldsAtReset : Prop := State.reset.Inv

/-- Every step keeps the invariant of the machine: INV-BUF (R21), counters within their width and their
sum (R26), and emitted payloads of at most B - 4 bytes without TERM and ETX (R27, R168). -/
def Obligations.EveryStepKeepsTheMachineInvariant : Prop :=
  ∀ s t : State, s.Inv → step s = .next t → t.Inv
end

