-- ==== Sys2Proof/Laws/Config.lean ====
section
/-! SUPPORT. Legality of configurations: REF_TABLE meets both constraints, legalising gives a legal
configuration and leaves a legal one alone, and TAB-2 says that a table is injective. -/

namespace Sys2Proof

theorem refTable_tab1 : refTable.Tab1 := by decide

theorem refTable_tab2 : refTable.Tab2 := by decide +kernel

/-- Legalising gives a legal configuration. -/
theorem Config.legalise_legal (c : Config) : c.legalise.Legal where
  tab1 := by
    by_cases h : c.table.Tab1 ∧ c.table.Tab2
    · simpa only [Config.legalise, if_pos h] using h.1
    · simpa only [Config.legalise, if_neg h] using refTable_tab1
  tab2 := by
    by_cases h : c.table.Tab1 ∧ c.table.Tab2
    · simpa only [Config.legalise, if_pos h] using h.2
    · simpa only [Config.legalise, if_neg h] using refTable_tab2
  scanPos := by simp only [Config.legalise]; omega
  cntLow := by simp only [Config.legalise]; omega
  cntHigh := by simp only [Config.legalise]; omega

/-- Legalising loses nothing: every legal configuration is a value of it. -/
theorem Config.Legal.legalise_eq {c : Config} (h : c.Legal) : c.legalise = c := by
  have h1 : max 1 c.maxScan = c.maxScan := by have := h.scanPos; omega
  have h2 : max 1 (min 32 c.cntW) = c.cntW := by have := h.cntLow; have := h.cntHigh; omega
  have h3 : c.table.Tab1 ∧ c.table.Tab2 := ⟨h.tab1, h.tab2⟩
  simp only [Config.legalise, if_pos h3, h1, h2]

/-- The instance that `exec` runs has legal parameters. -/
theorem Config.chip_legal : Config.chip.Legal := Config.asBuilt.legalise_legal

/-- The defaults of R5 around a table that meets its constraints are legal. -/
theorem Config.withDefaults_legal {T : Table} (h1 : T.Tab1) (h2 : T.Tab2) :
    (Config.withDefaults T).Legal :=
  ⟨h1, h2, by simp [Config.withDefaults], by simp [Config.withDefaults], by simp [Config.withDefaults]⟩

/-- The entry of a table at a byte, read from its list of entries. -/
theorem Table.entries_getElem? (T : Table) (x : Byte) : T.entries[x.toNat]? = some (T x) := by
  have hx : x.toNat < 256 := x.isLt
  simp [Table.entries, hx]

/-- TAB-2 makes a table injective. -/
theorem Table.Tab2.injective {T : Table} (h : T.Tab2) : Function.Injective T := by
  intro x y hxy
  have hl : T.entries.length = 256 := by simp [Table.entries]
  have hx : x.toNat < T.entries.length := by rw [hl]; exact x.isLt
  have e : T.entries[x.toNat]? = T.entries[y.toNat]? := by
    rw [T.entries_getElem?, T.entries_getElem?, hxy]
  exact BitVec.eq_of_toNat_eq ((List.getElem?_inj hx h).1 e)

end Sys2Proof
end

