-- ==== Sys2Proof/Laws/State.lean ====
section
/-! SUPPORT. The fields of a record after each update of it, true by `rfl`, so that no later proof
unfolds an update. -/

namespace Sys2Proof.Machine

variable (c : Config) (k : CounterName) (d : DiagCode) (fb : FrameBlock) (s : State)

@[simp] theorem FrameBlock.setBuf_buf (x : List Byte) : (fb.setBuf x).buf = x := rfl
@[simp] theorem FrameBlock.setBuf_hacc (x : List Byte) : (fb.setBuf x).hacc = fb.hacc := rfl
@[simp] theorem FrameBlock.setBuf_cnt (x : List Byte) : (fb.setBuf x).cnt = fb.cnt := rfl
@[simp] theorem FrameBlock.setBuf_out (x : List Byte) : (fb.setBuf x).out = fb.out := rfl
@[simp] theorem FrameBlock.setBuf_diag (x : List Byte) : (fb.setBuf x).diag = fb.diag := rfl

@[simp] theorem FrameBlock.setHacc_buf (v : Byte) : (fb.setHacc v).buf = fb.buf := rfl
@[simp] theorem FrameBlock.setHacc_hacc (v : Byte) : (fb.setHacc v).hacc = v := rfl
@[simp] theorem FrameBlock.setHacc_cnt (v : Byte) : (fb.setHacc v).cnt = fb.cnt := rfl
@[simp] theorem FrameBlock.setHacc_out (v : Byte) : (fb.setHacc v).out = fb.out := rfl
@[simp] theorem FrameBlock.setHacc_diag (v : Byte) : (fb.setHacc v).diag = fb.diag := rfl

@[simp] theorem FrameBlock.emitOut_buf (p : List Byte) : (fb.emitOut p).buf = fb.buf := rfl
@[simp] theorem FrameBlock.emitOut_hacc (p : List Byte) : (fb.emitOut p).hacc = fb.hacc := rfl
@[simp] theorem FrameBlock.emitOut_cnt (p : List Byte) : (fb.emitOut p).cnt = fb.cnt := rfl
@[simp] theorem FrameBlock.emitOut_out (p : List Byte) : (fb.emitOut p).out = fb.out ++ [p] := rfl
@[simp] theorem FrameBlock.emitOut_diag (p : List Byte) : (fb.emitOut p).diag = fb.diag := rfl

@[simp] theorem FrameBlock.emitDiag_buf : (fb.emitDiag d).buf = fb.buf := rfl
@[simp] theorem FrameBlock.emitDiag_hacc : (fb.emitDiag d).hacc = fb.hacc := rfl
@[simp] theorem FrameBlock.emitDiag_cnt : (fb.emitDiag d).cnt = fb.cnt := rfl
@[simp] theorem FrameBlock.emitDiag_out : (fb.emitDiag d).out = fb.out := rfl
@[simp] theorem FrameBlock.emitDiag_diag : (fb.emitDiag d).diag = fb.diag ++ [d] := rfl

@[simp] theorem FrameBlock.count_buf : (fb.count c k).buf = fb.buf := rfl
@[simp] theorem FrameBlock.count_hacc : (fb.count c k).hacc = fb.hacc := rfl
@[simp] theorem FrameBlock.count_cnt : (fb.count c k).cnt = fb.cnt.bump c k := rfl
@[simp] theorem FrameBlock.count_out : (fb.count c k).out = fb.out := rfl
@[simp] theorem FrameBlock.count_diag : (fb.count c k).diag = fb.diag := rfl

@[simp] theorem FrameBlock.classify_buf : (fb.classify c k d).buf = fb.buf := rfl
@[simp] theorem FrameBlock.classify_hacc : (fb.classify c k d).hacc = fb.hacc := rfl
@[simp] theorem FrameBlock.classify_cnt : (fb.classify c k d).cnt = fb.cnt.bump c k := rfl
@[simp] theorem FrameBlock.classify_out : (fb.classify c k d).out = fb.out := rfl
@[simp] theorem FrameBlock.classify_diag : (fb.classify c k d).diag = fb.diag ++ [d] := rfl

@[simp] theorem FrameBlock.reset_buf : FrameBlock.reset.buf = [] := rfl
@[simp] theorem FrameBlock.reset_hacc : FrameBlock.reset.hacc = 0x00#8 := rfl
@[simp] theorem FrameBlock.reset_cnt : FrameBlock.reset.cnt = Counters.zero := rfl
@[simp] theorem FrameBlock.reset_out : FrameBlock.reset.out = [] := rfl
@[simp] theorem FrameBlock.reset_diag : FrameBlock.reset.diag = [] := rfl

@[simp] theorem State.advancePort_toFrameBlock : (s.advancePort).toFrameBlock = s.toFrameBlock := rfl
@[simp] theorem State.advancePort_port : (s.advancePort).port = s.port.tail := rfl
@[simp] theorem State.advancePort_responses : (s.advancePort).responses = s.responses := rfl
@[simp] theorem State.advancePort_outReady : (s.advancePort).outReady = s.outReady := rfl
@[simp] theorem State.advancePort_diagReady : (s.advancePort).diagReady = s.diagReady := rfl
@[simp] theorem State.advancePort_respReady : (s.advancePort).respReady = s.respReady := rfl

@[simp] theorem State.applyReset_toFrameBlock : (s.applyReset).toFrameBlock = FrameBlock.reset := rfl
@[simp] theorem State.applyReset_port : (s.applyReset).port = s.port := rfl
@[simp] theorem State.applyReset_responses : (s.applyReset).responses = s.responses := rfl
@[simp] theorem State.applyReset_outReady : (s.applyReset).outReady = s.outReady := rfl
@[simp] theorem State.applyReset_diagReady : (s.applyReset).diagReady = s.diagReady := rfl
@[simp] theorem State.applyReset_respReady : (s.applyReset).respReady = s.respReady := rfl

@[simp] theorem State.present_toFrameBlock (p : PortEvent) : (s.present p).toFrameBlock = s.toFrameBlock := rfl
@[simp] theorem State.present_port (p : PortEvent) : (s.present p).port = p :: s.port := rfl
@[simp] theorem State.present_responses (p : PortEvent) : (s.present p).responses = s.responses := rfl
@[simp] theorem State.present_outReady (p : PortEvent) : (s.present p).outReady = true := rfl
@[simp] theorem State.present_diagReady (p : PortEvent) : (s.present p).diagReady = true := rfl
@[simp] theorem State.present_respReady (p : PortEvent) : (s.present p).respReady = true := rfl

@[simp] theorem State.reset_toFrameBlock : State.reset.toFrameBlock = FrameBlock.reset := rfl
@[simp] theorem State.reset_port : State.reset.port = [] := rfl
@[simp] theorem State.reset_responses : State.reset.responses = [] := rfl
@[simp] theorem State.reset_outReady : State.reset.outReady = true := rfl
@[simp] theorem State.reset_diagReady : State.reset.diagReady = true := rfl
@[simp] theorem State.reset_respReady : State.reset.respReady = true := rfl

/-- A counter after a write of the counters: the written one has the value, the others are kept. -/
theorem Counters.get_set (cs : Counters) (j k : CounterName) (v : BitVec 32) :
    (cs.set k v).get j = if j = k then v else cs.get j := by
  cases j <;> cases k <;> rfl

@[simp] theorem Counters.get_set_same (cs : Counters) (k : CounterName) (v : BitVec 32) :
    (cs.set k v).get k = v := by simp [Counters.get_set]

@[simp] theorem Counters.get_zero (k : CounterName) : Counters.zero.get k = 0 := by cases k <;> rfl

@[simp] theorem Counters.value_zero (w : Nat) (k : CounterName) : Counters.zero.value w k = 0 := by
  simp [Counters.value]

end Sys2Proof.Machine
end

