-- ==== Sys2Proof/Laws/Ops.lean ====
section
/-! SUPPORT. What each shared operation can do, said once: byte slices, counting, folds, digit
comparison and the return of a response. -/

namespace Sys2Proof.Machine

/-! ## Sequences -/

/-- The bytes of a slice (R7). -/
theorem slice_getElem? (s : List Byte) (i j k : Nat) :
    (slice s i j)[k]? = if k < j + 1 - i then s[i + k]? else none := by
  rw [slice, List.getElem?_take]
  split
  · rw [List.getElem?_drop]
  · rfl

/-- The length of a slice that lies inside its sequence. -/
theorem slice_length {s : List Byte} {i j : Nat} (h : j + 1 ≤ s.length) :
    (slice s i j).length = j + 1 - i := by
  rw [slice, List.length_take, List.length_drop]; omega

/-! ## Counters -/

/-- Everything an increment does to the counters: with counters present the named one goes up by one
modulo 2^CNT_W and the others stay; with counters absent nothing happens (R26). -/
theorem Counters.bump_cases (c : Config) (k : CounterName) (cs : Counters) :
    (c.counters = .present ∧ ∀ j, (cs.bump c k).get j =
        if j = k then BitVec.ofNat 32 (((cs.get k).toNat + 1) % 2 ^ c.cntW) else cs.get j)
    ∨ (c.counters = .absent ∧ cs.bump c k = cs) := by
  cases h : c.counters with
  | present => exact .inl ⟨rfl, fun j => by simp [Counters.bump, h, Counters.increment, Counters.get_set]⟩
  | absent => exact .inr ⟨rfl, by simp [Counters.bump, h]⟩

/-- A counter that fits `w` bits is its own value. -/
theorem Counters.value_of_fit {cs : Counters} {w : Nat} (h : CountersFit w cs) (k : CounterName) :
    cs.value w k = (cs.get k).toNat := Nat.mod_eq_of_lt (h k)

/-- Incrementing keeps the counters within their width. -/
theorem CountersFit.bump {c : Config} {cs : Counters} (k : CounterName) (h : CountersFit c.cntW cs) :
    CountersFit c.cntW (cs.bump c k) := by
  intro j
  rcases Counters.bump_cases c k cs with ⟨-, hj⟩ | ⟨-, he⟩
  · rw [hj j]
    split
    · rw [BitVec.toNat_ofNat]
      exact lt_of_le_of_lt (Nat.mod_le _ _) (Nat.mod_lt _ (Nat.two_pow_pos _))
    · exact h j
  · rw [he]; exact h j

/-! ## Folds and digits -/

@[simp] theorem foldFrom_nil (T : Table) (a : Byte) : foldFrom T a [] = a := rfl

@[simp] theorem foldFrom_cons (T : Table) (a b : Byte) (s : List Byte) :
    foldFrom T a (b :: s) = foldFrom T (T (a ^^^ b)) s := rfl

/-- Folding a concatenation folds its parts in order. -/
theorem foldFrom_append (T : Table) (a : Byte) (s t : List Byte) :
    foldFrom T a (s ++ t) = foldFrom T (foldFrom T a s) t := by
  induction s generalizing a with
  | nil => rfl
  | cons b s ih => exact ih _

/-- Over an injective table the fold is injective in its accumulator. -/
theorem foldFrom_injective {T : Table} (h : Function.Injective T) (s : List Byte) :
    Function.Injective fun a => foldFrom T a s := by
  induction s with
  | nil => exact fun _ _ e => e
  | cons b s ih => exact fun a a' e => BitVec.xor_left_inj b |>.1 (h (ih e))

@[simp] theorem not8_not8 (v : Byte) : not8 (not8 v) = v := by simp [not8]

theorem not8_injective : Function.Injective not8 := fun a b e => by
  simpa using congrArg not8 e

/-- A digit pair decodes exactly when both digits do, to the high nibble before the low one (R64). -/
theorem hexPair_eq_some {hi lo : Byte} {v : Byte} :
    hexPair hi lo = some v ↔ ∃ h l, hexval hi = some h ∧ hexval lo = some l ∧ v = h ++ l := by
  unfold hexPair
  cases hexval hi <;> cases hexval lo <;> simp [eq_comm]

/-- Everything a digit comparison can answer, and when (R105). -/
theorem compareDigits_cases (acc hi lo : Byte) :
    (hexPair hi lo = none ∧ compareDigits acc hi lo = .badHex)
    ∨ (hexPair hi lo = some (not8 acc) ∧ compareDigits acc hi lo = .isMatch)
    ∨ (∃ v, hexPair hi lo = some v ∧ v ≠ not8 acc ∧ compareDigits acc hi lo = .mismatch) := by
  unfold compareDigits
  cases h : hexPair hi lo with
  | none => exact .inl ⟨rfl, rfl⟩
  | some v =>
    by_cases e : v = not8 acc
    · exact .inr (.inl ⟨by rw [e], by simp [e]⟩)
    · exact .inr (.inr ⟨v, rfl, e, by simp [e]⟩)

/-! ## Responses -/

/-- Completing a command always answers a next state: the new record, one more response, and the ports
as they were (R75). -/
theorem complete_next {s t : State} {r : FrameBlock × Response} :
    complete s r = .next t ↔ t = { s with toFrameBlock := r.1, responses := s.responses ++ [r.2] } := by
  simp [complete, eq_comm]

end Sys2Proof.Machine
end

