-- ==== Sys2Proof/Laws/Validator.lean ====
section
/-! SUPPORT. What the validator can answer (R160 to R167), said once. -/

namespace Sys2Proof.Machine

/-- The search for the first ETX finds exactly the index R161 describes. -/
theorem firstEtx_eq_some {F : List Byte} {e : Nat} : firstEtx F = some e ↔ FirstEtxAt F e := by
  unfold firstEtx
  rw [List.find?_range_eq_some]
  simp only [Bool.and_eq_true, decide_eq_true_eq, Bool.not_eq_true', Bool.and_eq_false_iff,
    decide_eq_false_iff_not, List.mem_range]
  constructor
  · rintro ⟨⟨h1, h2⟩, h3, h4⟩
    exact ⟨h1, by omega, h2, fun i hi hlt h => (h4 i hlt).elim (fun n => n hi) (fun n => n h)⟩
  · rintro ⟨h1, h2, h3, h4⟩
    refine ⟨⟨h1, h3⟩, by omega, fun j hj => ?_⟩
    by_cases h : 1 ≤ j
    · exact .inr (h4 j h hj)
    · exact .inl h

/-- The search finds nothing exactly when no index 1..n-4 holds an ETX (R161). -/
theorem firstEtx_eq_none {F : List Byte} :
    firstEtx F = none ↔ ∀ i, 1 ≤ i → i + 4 ≤ F.length → F[i]? ≠ some ETX := by
  simp only [firstEtx, List.find?_eq_none, List.mem_range, Bool.and_eq_true, decide_eq_true_eq, not_and]
  exact ⟨fun h i h1 h2 => h i (by omega) h1, fun h i h1 h2 => h i h2 (by omega)⟩

/-- An index inside a frame reads the frame's byte. -/
theorem byteAt_eq {F : List Byte} {i : Nat} {b : Byte} (h : F[i]? = some b) : byteAt F i = b := by
  simp [byteAt, h]

/-- A valid result comes from a first ETX that the policy accepts and from two digits that decode to
the checksum of the bytes before it; the payload is those bytes (R165). -/
theorem validate_valid {c : Config} {F p : List Byte} (h : validate c F = .valid p) :
    ∃ e, FirstEtxAt F e ∧ (c.etxPolicy = .strictFirst → e = F.length - 4) ∧ p = slice F 1 (e - 1)
      ∧ hexPair (byteAt F (e + 1)) (byteAt F (e + 2)) = some (compute c.table p) := by
  unfold validate at h
  split at h
  · cases h
  · rename_i e he
    split at h
    · cases h
    · rename_i hpol
      unfold checkDigits verify at h
      rcases compareDigits_cases (fold c.table (slice F 1 (e - 1))) (byteAt F (e + 1)) (byteAt F (e + 2))
        with ⟨hx, hc⟩ | ⟨hx, hc⟩ | ⟨v, hx, hne, hc⟩ <;> rw [hc] at h
      · cases h
      · simp only [ValidationResult.valid.injEq] at h
        subst h
        exact ⟨e, firstEtx_eq_some.1 he, fun hs => by_contra fun hn => hpol ⟨hs, hn⟩, rfl, hx⟩
      · cases h

/-- What recording a result adds: one count, one diagnostic code and, for a valid frame alone, its
payload; the buffer and the accumulator stay (R167). -/
theorem recordResult_cases (c : Config) (r : ValidationResult) (fb : FrameBlock) :
    ∃ k d ps, recordResult c r fb =
        { fb with cnt := fb.cnt.bump c k, out := fb.out ++ ps, diag := fb.diag ++ [d] }
      ∧ (∀ p, r = .valid p → k = .valid ∧ d = .valid ∧ ps = [p])
      ∧ (r = .missingDelimiter → k = .missingDelimiter ∧ d = .missingDelimiter ∧ ps = [])
      ∧ (r = .checksumMismatch → k = .checksumMismatch ∧ d = .checksumMismatch ∧ ps = [])
      ∧ (r = .malformedChecksum → k = .malformedChecksum ∧ d = .malformedChecksum ∧ ps = []) := by
  cases r with
  | valid p =>
    exact ⟨.valid, .valid, [p], rfl, by simp +contextual, by simp, by simp, by simp⟩
  | missingDelimiter =>
    exact ⟨.missingDelimiter, .missingDelimiter, [],
      by simp [recordResult, FrameBlock.classify, FrameBlock.count, FrameBlock.emitDiag], by simp, by simp, by simp, by simp⟩
  | checksumMismatch =>
    exact ⟨.checksumMismatch, .checksumMismatch, [],
      by simp [recordResult, FrameBlock.classify, FrameBlock.count, FrameBlock.emitDiag], by simp, by simp, by simp, by simp⟩
  | malformedChecksum =>
    exact ⟨.malformedChecksum, .malformedChecksum, [],
      by simp [recordResult, FrameBlock.classify, FrameBlock.count, FrameBlock.emitDiag], by simp, by simp, by simp, by simp⟩

@[simp] theorem payload?_valid (p : List Byte) : (ValidationResult.valid p).payload? = some p := rfl
@[simp] theorem payload?_missingDelimiter : ValidationResult.missingDelimiter.payload? = none := rfl
@[simp] theorem payload?_checksumMismatch : ValidationResult.checksumMismatch.payload? = none := rfl
@[simp] theorem payload?_malformedChecksum : ValidationResult.malformedChecksum.payload? = none := rfl

/-- Recording a result hands its payload downstream, and nothing where it has none (R167). -/
theorem recordResult_out (c : Config) (r : ValidationResult) (fb : FrameBlock) :
    (recordResult c r fb).out = fb.out ++ r.payload?.toList := by
  cases r <;> simp [recordResult]

end Sys2Proof.Machine
end

