-- ==== Sys2Proof/Laws/Assembler.lean ====
section
/-! SUPPORT. What the assembler can do with one byte (R131 to R135), and the laws of byte-serial
feeding. -/

namespace Sys2Proof.Machine

/-- The five arms of R131, with the conditions under which each is taken. -/
theorem assemble_cases (B : Nat) (buf : List Byte) (b : Byte) :
    (buf = [] ∧ b = STX ∧ assemble B buf b = ([STX], .opened))
    ∨ (buf = [] ∧ b ≠ STX ∧ assemble B buf b = ([], .noise))
    ∨ (buf ≠ [] ∧ b = TERM ∧ assemble B buf b = ([], .frame (buf ++ [TERM])))
    ∨ (buf ≠ [] ∧ b ≠ TERM ∧ buf.length = B ∧ assemble B buf b = ([], .overrun))
    ∨ (buf ≠ [] ∧ b ≠ TERM ∧ buf.length ≠ B ∧ assemble B buf b = (buf ++ [b], .appended)) := by
  cases buf with
  | nil => by_cases h : b = STX <;> simp [assemble, h]
  | cons x xs =>
    have hne : (x :: xs).length ≠ 0 := by simp
    by_cases h : b = TERM
    · exact .inr (.inr (.inl ⟨by simp, h, by rw [assemble, if_neg hne, if_pos h]⟩))
    · by_cases h2 : (x :: xs).length = B
      · exact .inr (.inr (.inr (.inl ⟨by simp, h, h2, by rw [assemble, if_neg hne, if_neg h, if_pos h2]⟩)))
      · exact .inr (.inr (.inr (.inr ⟨by simp, h, h2, by rw [assemble, if_neg hne, if_neg h, if_neg h2]⟩)))

/-- What the event of a byte adds to a record: the accumulator and the buffer stay. -/
@[simp] theorem handleEvent_buf (c : Config) (ev : AssemblerEvent) (fb : FrameBlock) :
    (handleEvent c ev fb).buf = fb.buf := by
  cases ev with
  | frame F =>
    obtain ⟨k, d, ps, h, -⟩ := recordResult_cases c (validate c F) (fb.count c .frames)
    simp only [handleEvent, validateAndEmit, h, FrameBlock.count_buf]
  | opened => rfl
  | noise => rfl
  | overrun => rfl
  | appended => rfl

@[simp] theorem handleEvent_hacc (c : Config) (ev : AssemblerEvent) (fb : FrameBlock) :
    (handleEvent c ev fb).hacc = fb.hacc := by
  cases ev with
  | frame F =>
    obtain ⟨k, d, ps, h, -⟩ := recordResult_cases c (validate c F) (fb.count c .frames)
    simp only [handleEvent, validateAndEmit, h, FrameBlock.count_hacc]
  | opened => rfl
  | noise => rfl
  | overrun => rfl
  | appended => rfl

@[simp] theorem AssemblerEvent.frame?_opened : AssemblerEvent.opened.frame? = none := rfl
@[simp] theorem AssemblerEvent.frame?_noise : AssemblerEvent.noise.frame? = none := rfl
@[simp] theorem AssemblerEvent.frame?_frame (F : List Byte) : (AssemblerEvent.frame F).frame? = some F := rfl
@[simp] theorem AssemblerEvent.frame?_overrun : AssemblerEvent.overrun.frame? = none := rfl
@[simp] theorem AssemblerEvent.frame?_appended : AssemblerEvent.appended.frame? = none := rfl

/-- Feeding nothing. -/
@[simp] theorem feed_nil (B : Nat) (buf : List Byte) : feed B buf [] = (buf, []) := rfl

/-- Feeding one byte more at the front. -/
theorem feed_cons (B : Nat) (buf : List Byte) (b : Byte) (chunk : List Byte) :
    feed B buf (b :: chunk) =
      ((feed B (assemble B buf b).1 chunk).1, (assemble B buf b).2 :: (feed B (assemble B buf b).1 chunk).2) :=
  rfl

/-- Feeding a concatenation feeds its parts in order. -/
theorem feed_append (B : Nat) (buf xs ys : List Byte) :
    feed B buf (xs ++ ys) =
      ((feed B (feed B buf xs).1 ys).1, (feed B buf xs).2 ++ (feed B (feed B buf xs).1 ys).2) := by
  induction xs generalizing buf with
  | nil => rfl
  | cons b xs ih => simp only [List.cons_append, feed_cons, ih]

/-- No chunk, no pass. -/
@[simp] theorem passChunks_nil (B : Nat) (buf : List Byte) : passChunks B buf [] = ⟨buf, [], false⟩ := rfl

/-- One chunk more at the front. -/
theorem passChunks_cons (B : Nat) (buf chunk : List Byte) (chunks : List (List Byte)) :
    passChunks B buf (chunk :: chunks) =
      ⟨(passChunks B (assemblerPass B buf chunk).buf chunks).buf,
       (assemblerPass B buf chunk).frames ++ (passChunks B (assemblerPass B buf chunk).buf chunks).frames,
       (assemblerPass B buf chunk).overrun || (passChunks B (assemblerPass B buf chunk).buf chunks).overrun⟩ :=
  rfl

end Sys2Proof.Machine
end

