-- ==== Sys2Proof/Laws/Exec.lean ====
section
/-! SUPPORT. `exec` is the step function of R12 at `Config.chip`, and what one command can do. -/

namespace Sys2Proof.Machine

/-- Every arm of `exec` completes the command of R12 at the chip's configuration. -/
theorem exec_eq_complete (i : Instr) (s : State) :
    exec i s = complete s (commandStep Config.chip i s.toFrameBlock) := by
  cases i <;> rfl

/-- What a next state of `exec` is: the new record, one more response, and the ports as they were. -/
theorem exec_next {i : Instr} {s t : State} :
    exec i s = .next t ↔ t = { s with
      toFrameBlock := (commandStep Config.chip i s.toFrameBlock).1
      responses := s.responses ++ [(commandStep Config.chip i s.toFrameBlock).2] } := by
  rw [exec_eq_complete, complete_next]

/-- A run through `exec` is a run of R12's step function: it always answers a next state. -/
theorem execRun_eq (is : List Instr) (s : State) :
    execRun is s = .next { s with
      toFrameBlock := (commandRun Config.chip is s.toFrameBlock).1
      responses := s.responses ++ (commandRun Config.chip is s.toFrameBlock).2 } := by
  induction is generalizing s with
  | nil => simp [execRun, commandRun]
  | cons i is ih =>
    rw [execRun, exec_next.2 rfl]
    simp only [ih, commandRun, List.append_assoc, List.singleton_append]

/-- A run of a concatenation runs its parts in order. -/
theorem commandRun_append (c : Config) (xs ys : List Instr) (fb : FrameBlock) :
    commandRun c (xs ++ ys) fb =
      ((commandRun c ys (commandRun c xs fb).1).1,
        (commandRun c xs fb).2 ++ (commandRun c ys (commandRun c xs fb).1).2) := by
  induction xs generalizing fb with
  | nil => rfl
  | cons i xs ih => simp only [List.cons_append, commandRun, ih]

end Sys2Proof.Machine
end

