-- ==== Sys2Proof/Laws/PerInstr.lean ====
section
/-! SUPPORT. The fields of packed words, and a statement about every command as syntax with one lemma
per constructor of `Instr`. -/

namespace Sys2Proof.Laws

/-- The operation field of a packed word (R70). -/
@[simp] theorem opField_packWord (op : OpField) (a b : Byte) : opField (packWord op a b) = op := by
  apply BitVec.eq_of_getLsbD_eq
  intro i hi
  simp [opField, packWord]
  grind

/-- The first operand field of a packed word (R70). -/
@[simp] theorem aField_packWord (op : OpField) (a b : Byte) : aField (packWord op a b) = a := by
  apply BitVec.eq_of_getLsbD_eq
  intro i hi
  simp [aField, packWord]
  grind

/-- The second operand field of a packed word (R70). -/
@[simp] theorem bField_packWord (op : OpField) (a b : Byte) : bField (packWord op a b) = b := by
  apply BitVec.eq_of_getLsbD_eq
  intro i hi
  simp [bField, packWord]
  grind

/-- A word is its three fields: R70 gives no other bits. -/
theorem packWord_fields (w : CommandWord) : packWord (opField w) (aField w) (bField w) = w := by
  apply BitVec.eq_of_getLsbD_eq
  intro i hi
  simp only [packWord, opField, aField, bField, BitVec.getLsbD_append, BitVec.getLsbD_extractLsb']
  interval_cases i <;> simp

/-- Masking a word with the operation and second operand fields clears the first operand field. -/
theorem packWord_and_low (op : OpField) (a b : Byte) :
    packWord op a b &&& 0xF00FF#20 = packWord op 0#8 b := by
  apply BitVec.eq_of_getLsbD_eq
  intro i hi
  simp only [packWord, BitVec.getLsbD_and, BitVec.getLsbD_append]
  interval_cases i <;> simp

/-- Masking a word with the operation field clears both operand fields. -/
theorem packWord_and_op (op : OpField) (a b : Byte) :
    packWord op a b &&& 0xF0000#20 = packWord op 0#8 0#8 := by
  apply BitVec.eq_of_getLsbD_eq
  intro i hi
  simp only [packWord, BitVec.getLsbD_and, BitVec.getLsbD_append]
  interval_cases i <;> simp

/-- The encoding of a well-formed command has the operation field the map R71 gives it, and 0 in every
bit outside the fields it uses (R74). -/
def EncodedFields.Statement (i : Instr) : Prop :=
  i.WellFormed → opField (encode i) = i.op ∧ encode i &&& usedMask i.op = encode i

theorem EncodedFields.nop : EncodedFields.Statement .nop := fun _ => by decide

theorem EncodedFields.ingest (b : Byte) : EncodedFields.Statement (.ingest b) :=
  fun _ => ⟨opField_packWord .., packWord_and_low ..⟩

theorem EncodedFields.clear : EncodedFields.Statement .clear := fun _ => by decide

theorem EncodedFields.crcInit : EncodedFields.Statement .crcInit := fun _ => by decide

theorem EncodedFields.crcUpdate (b : Byte) : EncodedFields.Statement (.crcUpdate b) :=
  fun _ => ⟨opField_packWord .., packWord_and_low ..⟩

theorem EncodedFields.crcFinal : EncodedFields.Statement .crcFinal := fun _ => by decide

theorem EncodedFields.crcVerify (a b : Byte) : EncodedFields.Statement (.crcVerify a b) :=
  fun _ => ⟨opField_packWord .., by
    show packWord 0x6#4 a b &&& 0xFFFFF#20 = packWord 0x6#4 a b
    exact BitVec.and_allOnes⟩

theorem EncodedFields.readCnt (b : Byte) : EncodedFields.Statement (.readCnt b) :=
  fun _ => ⟨opField_packWord .., packWord_and_low ..⟩

theorem EncodedFields.reserved (op : OpField) : EncodedFields.Statement (.reserved op) := fun h => by
  refine ⟨opField_packWord .., ?_⟩
  have hm : usedMask op = 0xF0000#20 := by
    have h8 : op.getLsbD 3 = true := h
    revert op
    decide
  show packWord op 0#8 0#8 &&& usedMask op = packWord op 0#8 0#8
  rw [hm, packWord_and_op]

end Sys2Proof.Laws
end

