-- ==== Sys2Proof/Laws/Step.lean ====
section
/-! SUPPORT. What one step can do, said once. -/

namespace Sys2Proof.Machine

/-- Everything a step can do, guards included: hold its state at an idle port, apply the reset signal,
hold a command that a consumer does not accept, or perform the presented command. -/
theorem step_cases {s t : State} (h : step s = .next t) :
    (s.port = [] ∧ t = s)
    ∨ (∃ p rest, s.port = .reset p :: rest ∧ t = s.advancePort.applyReset)
    ∨ (∃ w rest, s.port = .command w :: rest ∧ s.held (fetch w) = true ∧ t = s)
    ∨ (∃ w rest, s.port = .command w :: rest ∧ s.held (fetch w) = false
        ∧ exec (fetch w) s.advancePort = .next t) := by
  unfold step at h
  split at h
  · rename_i hp
    exact .inl ⟨hp, by simpa using h.symm⟩
  · rename_i p rest hp
    exact .inr (.inl ⟨p, rest, hp, by simpa using h.symm⟩)
  · rename_i w rest hp
    split at h
    · rename_i hh
      exact .inr (.inr (.inl ⟨w, rest, hp, hh, by simpa using h.symm⟩))
    · rename_i hh
      exact .inr (.inr (.inr ⟨w, rest, hp, by simpa using hh, h⟩))

/-- A state with an accepting consumer on every port holds no command. -/
theorem held_eq_false {s : State} (i : Instr) (ho : s.outReady = true) (hd : s.diagReady = true)
    (hr : s.respReady = true) : s.held i = false := by
  simp [State.held, ho, hd, hr]

end Sys2Proof.Machine
end

