-- ==== Sys2Proof/Tests/Slice0.lean ====
section
/-! SUPPORT. The model's own tests. Expected values are those of spec/95_test_vectors.md (the vector's
id stands at each test) or are written out by hand from the rule named; and, for each obligation with
hypotheses, a concrete case that meets them. -/

namespace Sys2Proof.Tests

open Sys2Proof Sys2Proof.Machine

/-! ## Helpers -/

/-- The defaults of R5 around REF_TABLE. -/
def refConfig : Config := Config.withDefaults refTable

/-- REF_TABLE with the scan bound 8 of vectors A-14 to A-18. -/
def boundEight : Config := { refConfig with maxScan := 8 }

/-- A record with a buffer and an accumulator, all else at reset. -/
def withBuf (buf : List Byte) (hacc : Byte) : FrameBlock := { FrameBlock.reset with buf := buf, hacc := hacc }

/-- A machine state around a record, nothing presented. -/
def atRecord (fb : FrameBlock) : State := { State.reset with toFrameBlock := fb }

/-- Whether an outcome is a next state that passes a check. -/
def isNextWith (p : State → Bool) : Host.Outcome State Fault Refusal → Bool
  | .next t => p t
  | .fault _ => false
  | .refused _ => false

/-- The frame of the source's section 8: STX "D1" ETX "C0" TERM. -/
def sourceFrame : List Byte := [0x02#8, 0x44#8, 0x31#8, 0x03#8, 0x43#8, 0x30#8, 0x0D#8]

/-! ## Well-formedness -/

theorem test_wf_refuses_reserved_below_eight : ¬ (Instr.reserved 0x7#4).WellFormed := by decide

theorem test_wf_accepts_reserved_eight : (Instr.reserved 0x8#4).WellFormed := by decide

/-! ## Decoding: words written out from the map R71 (op, a, b) -/

theorem test_decode_nop : decode 0b0000_10101011_11001101#20 = .nop := by decide
theorem test_decode_ingest : decode 0b0001_11111111_00000010#20 = .ingest 0x02#8 := by decide
theorem test_decode_clear : decode 0b0010_00000000_00000001#20 = .clear := by decide
theorem test_decode_crcInit : decode 0b0011_10000000_00000000#20 = .crcInit := by decide
theorem test_decode_crcUpdate : decode 0b0100_00000001_01000100#20 = .crcUpdate 0x44#8 := by decide
theorem test_decode_crcFinal : decode 0b0101_00000000_11111111#20 = .crcFinal := by decide
theorem test_decode_crcVerify : decode 0b0110_01100011_00110000#20 = .crcVerify 0x63#8 0x30#8 := by decide
theorem test_decode_readCnt : decode 0b0111_00000000_00000110#20 = .readCnt 0x06#8 := by decide
theorem test_decode_reserved_low : decode 0b1000_00000000_00000000#20 = .reserved 0x8#4 := by decide
theorem test_decode_reserved_high : decode 0b1111_00010010_00110100#20 = .reserved 0xF#4 := by decide

/-- A transfer with a bit above bit 19 is no command word (R70). -/
theorem test_transfer_too_wide : decodeTransfer 24 0x100000 = .error .notACommandWord := by decide

/-- A transfer narrower than a word, which the spec does not have (DESIGN CHOICE, log entry 14): its
missing bits are 0. -/
theorem test_transfer_too_narrow : decodeTransfer 8 0x02 = .ok .nop := by decide

/-- A transfer wider than a word with 0 above bit 19, which the spec does not have either (DESIGN CHOICE,
log entry 14): the command of its low 20 bits. -/
theorem test_transfer_wide_zeros : decodeTransfer 24 0x010002 = .ok (.ingest 0x02#8) := by decide

theorem test_table_word : decodeTableWord 24 0x66330 = some (.crcVerify 0x63#8 0x30#8) := by decide

/-- R74: the encoder writes 0 in ignored fields; the word of the example of R131. -/
theorem test_encode_ingest : encode (.ingest 0x0D#8) = 0x1000D#20 := by decide

/-! ## Checksums and digits -/

/-- C-07. -/
theorem test_compute_d1 : compute refTable [0x44#8, 0x31#8] = 0xC0#8 := by decide +kernel

/-- C-19. -/
theorem test_compute_abcd : compute refTable [0x41#8, 0x42#8, 0x43#8, 0x44#8] = 0x1E#8 := by decide +kernel

/-- C-24: a bad low digit. -/
theorem test_verify_badhex : verify refTable [0x44#8, 0x31#8] 0x43#8 0x47#8 = .badHex := by decide +kernel

/-- H-20. -/
theorem test_render_0a : render 0x0A#8 = (0x30#8, 0x41#8) := by decide

/-- The classes of R61. -/
theorem test_byteClass : byteClass 0x02#8 = .stx ∧ byteClass 0x03#8 = .etx ∧ byteClass 0x0D#8 = .term
    ∧ byteClass 0x04#8 = .ordinary := by decide

/-! ## Validation -/

/-- V-11: the only ETX stands at n - 3. -/
theorem test_validate_late_etx :
    validate refConfig [0x02#8, 0x44#8, 0x31#8, 0x43#8, 0x03#8, 0x30#8, 0x0D#8] = .missingDelimiter := by
  decide +kernel

/-- V-14 under STRICT_FIRST. -/
theorem test_validate_strict_trailing :
    validate refConfig [0x02#8, 0x44#8, 0x31#8, 0x03#8, 0x43#8, 0x30#8, 0x20#8, 0x0D#8] = .malformedChecksum := by
  decide +kernel

/-- V-15 under FIRST_LOOSE. -/
theorem test_validate_loose :
    validate { refConfig with etxPolicy := .firstLoose }
      [0x02#8, 0x44#8, 0x03#8, 0x32#8, 0x39#8, 0x31#8, 0x03#8, 0x43#8, 0x30#8, 0x0D#8] = .valid [0x44#8] := by
  decide +kernel

/-- V-16: an STX inside the payload is folded. -/
theorem test_validate_inner_stx :
    validate refConfig [0x02#8, 0x02#8, 0x44#8, 0x31#8, 0x03#8, 0x30#8, 0x42#8, 0x0D#8]
      = .valid [0x02#8, 0x44#8, 0x31#8] := by
  decide +kernel

/-! ## One command each (part 6 of the vectors) -/

/-- K-02. -/
theorem test_nop : (commandStep refConfig (decode 0x0ABCD#20) (withBuf [0x02#8] 0x3F#8))
    = (withBuf [0x02#8] 0x3F#8, ⟨.ok, 0⟩) := by decide +kernel

/-- The example of R131: the TERM of the source's frame. -/
theorem test_ingest_term : (commandStep refConfig (.ingest 0x0D#8) (withBuf sourceFrame.dropLast 0x00#8)).1
    = { FrameBlock.reset with
        cnt := ⟨0, 1, 1, 0, 0, 0, 0⟩, out := [[0x44#8, 0x31#8]], diag := [.valid] } := by decide +kernel

/-- K-20: the noise counter of 4 bits wraps. -/
theorem test_ingest_noise_wraps :
    ((commandStep { refConfig with cntW := 4 } (.ingest 0x41#8)
      { FrameBlock.reset with cnt := ⟨15, 0, 0, 0, 0, 0, 0⟩ }).1).cnt = Counters.zero := by decide +kernel

/-- A-15, its last byte: overrun at B = 8. -/
theorem test_ingest_overrun :
    (commandStep boundEight (.ingest 0x41#8) (withBuf (0x02#8 :: List.replicate 7 0x41#8) 0x00#8)).1
      = { FrameBlock.reset with cnt := ⟨0, 0, 0, 0, 0, 0, 1⟩, diag := [.frameTooLong] } := by decide +kernel

/-- A-05: an STX while IN_FRAME joins the frame. -/
theorem test_ingest_inner_stx :
    (commandStep refConfig (.ingest 0x02#8) (withBuf [0x02#8, 0x44#8] 0x00#8)).1
      = withBuf [0x02#8, 0x44#8, 0x02#8] 0x00#8 := by decide +kernel

/-- K-05. -/
theorem test_clear : (commandStep refConfig .clear (withBuf [0x02#8, 0x44#8] 0xD6#8))
    = (withBuf [] 0xD6#8, ⟨.ok, 0⟩) := by decide +kernel

/-- K-06. -/
theorem test_crcInit : (commandStep refConfig .crcInit (withBuf [0x02#8] 0x3F#8)).1 = withBuf [0x02#8] 0x00#8 := by
  decide +kernel

/-- K-07, K-22. -/
theorem test_crcUpdate :
    (commandStep refConfig (.crcUpdate 0x31#8) (withBuf [0x02#8, 0x44#8] 0xD6#8)).1
      = withBuf [0x02#8, 0x44#8] 0x3F#8 := by decide +kernel

/-- K-08. -/
theorem test_crcFinal : (commandStep refConfig .crcFinal (withBuf [] 0x3F#8))
    = (withBuf [] 0x3F#8, ⟨.ok, 0x004330C0#32⟩) := by decide +kernel

/-- K-11. -/
theorem test_crcVerify_mismatch : (commandStep refConfig (decode 0x64331#20) (withBuf [] 0x3F#8)).2 = ⟨.ok, 1⟩ := by
  decide +kernel

/-- K-12. -/
theorem test_crcVerify_badhex : (commandStep refConfig (decode 0x64347#20) (withBuf [] 0x3F#8)).2 = ⟨.ok, 2⟩ := by
  decide +kernel

/-- K-14. -/
theorem test_readCnt : (commandStep refConfig (decode 0x70002#20)
    { FrameBlock.reset with cnt := ⟨0, 1, 1, 0, 0, 0, 0⟩ }).2 = ⟨.ok, 1⟩ := by decide +kernel

/-- K-15 and K-17. -/
theorem test_readCnt_errors : (commandStep refConfig (decode 0x70007#20) FrameBlock.reset).2 = ⟨.errBadIndex, 0⟩
    ∧ (commandStep { refConfig with counters := .absent } (decode 0x70000#20) FrameBlock.reset).2
      = ⟨.errReservedOp, 0⟩ := by decide +kernel

/-- K-19. -/
theorem test_reserved : (commandStep refConfig (decode 0xF1234#20) (withBuf [0x02#8] 0x3F#8))
    = (withBuf [0x02#8] 0x3F#8, ⟨.errReservedOp, 0⟩) := by decide +kernel

/-! ## Steps of the machine -/

/-- The first step after reset runs the presented command: an STX opens a frame (K-03). -/
theorem test_step_first_ingest :
    isNextWith (fun t => t.buf = [0x02#8] ∧ t.responses = [⟨.ok, 0⟩] ∧ t.port = [])
      (step (State.reset.withFetchWord 24 0x10002)) = true := by decide

/-- The same for a reserved op (K-18). -/
theorem test_step_first_reserved :
    isNextWith (fun t => t.responses = [⟨.errReservedOp, 0⟩]) (step (State.reset.withFetchWord 24 0x80000)) = true := by
  decide

/-- K-21: reset over a partial frame and a command presented with it. -/
theorem test_step_reset :
    isNextWith (fun t => t.toFrameBlock = FrameBlock.reset ∧ t.responses = [] ∧ t.port = [])
      (step { atRecord (withBuf [0x02#8, 0x44#8] 0xD6#8) with port := [.reset (some 0x10041#20)] }) = true := by
  decide

/-- R254: noise whose diagnostic entry is not accepted changes nothing. -/
theorem test_step_held :
    isNextWith (fun t => t.diag = [] ∧ t.responses = [] ∧ t.port = [.command 0x10041#20])
      (step { State.reset with port := [.command 0x10041#20], diagReady := false }) = true := by decide

/-- A reset behind a held command waits (DESIGN CHOICE, log entry 15); a reset at the head is taken
whatever the consumers accept (R240, R241). -/
theorem test_step_reset_while_held :
    isNextWith (fun t => t.hacc = 0x3F#8 ∧ t.port = [.command 0x30000#20, .reset none])
      (step { atRecord (withBuf [] 0x3F#8) with port := [.command 0x30000#20, .reset none], respReady := false })
      = true
    ∧ isNextWith (fun t => t.hacc = 0x00#8 ∧ t.port = [])
      (step { atRecord (withBuf [] 0x3F#8) with port := [.reset (some 0x30000#20)], respReady := false }) = true := by
  decide

/-- The chunk divergence after A-25: at B = 8 the chunked pass throws the second frame of A-16 away. -/
theorem test_assemblerPass_divergence :
    assemblerPass 8 [] (0x02#8 :: List.replicate 8 0x41#8 ++ sourceFrame) = ⟨[], [], true⟩
      ∧ feedFrames 8 [] (0x02#8 :: List.replicate 8 0x41#8 ++ sourceFrame) = [sourceFrame] := by decide +kernel

/-! ## Witnesses: for each obligation with hypotheses, a case that meets them -/

theorem refConfig_legal : refConfig.Legal := Config.withDefaults_legal refTable_tab1 refTable_tab2

/-- A candidate frame is recognised by running its conditions. -/
theorem candidateFrame_of_check {F : List Byte} (h2 : 2 ≤ F.length) (h0 : F[0]? = some STX)
    (hl : F[F.length - 1]? = some TERM)
    (hi : ((List.range (F.length - 1)).all fun i => i == 0 || F[i]? != some TERM) = true) : CandidateFrame F := by
  refine ⟨h2, h0, hl, fun i h1 h3 => ?_⟩
  rw [List.all_eq_true] at hi
  have := hi i (List.mem_range.2 (by omega))
  have hne : i ≠ 0 := by omega
  simpa [hne] using this

theorem sourceFrame_candidate : CandidateFrame sourceFrame :=
  candidateFrame_of_check (by decide) (by decide) (by decide) (by decide)

theorem sourceFrame_firstEtx : FirstEtxAt sourceFrame 3 := firstEtx_eq_some.1 (by decide)

/-- The buffer of a state whose attempt has reached the chip's bound. -/
def fullBuffer : List Byte := STX :: List.replicate (Config.chip.maxScan - 1) 0x41#8

theorem fullBuffer_length : fullBuffer.length = Config.chip.maxScan := by
  have := Config.chip_legal.scanPos
  simp only [fullBuffer, List.length_cons, List.length_replicate]; omega

theorem witness_DecodeOfEncodeIsTheCommand :
    (Instr.crcVerify 0xFF#8 0x00#8).WellFormed ∧ (Instr.reserved 0x8#4).WellFormed
      ∧ (Instr.reserved 0xF#4).WellFormed := by decide

theorem witness_OperationMapDecodesEveryRow :
    0x0FFFF#20 &&& 0xF0000#20 = 0x00000#20 ∧ 0x10000#20 &&& 0xF0000#20 = 0x10000#20
      ∧ 0x2FFFF#20 &&& 0xF0000#20 = 0x20000#20 ∧ 0x3FFFF#20 &&& 0xF0000#20 = 0x30000#20
      ∧ 0x4FFFF#20 &&& 0xF0000#20 = 0x40000#20 ∧ 0x5FFFF#20 &&& 0xF0000#20 = 0x50000#20
      ∧ 0x6FFFF#20 &&& 0xF0000#20 = 0x60000#20 ∧ 0x7FFFF#20 &&& 0xF0000#20 = 0x70000#20
      ∧ 0x80000#20 &&& 0x80000#20 = 0x80000#20 ∧ 0xFFFFF#20 &&& 0x80000#20 = 0x80000#20 := by decide

theorem witness_HexvalDecodesTheThreeDigitRanges :
    (0x30#8 ≤ 0x30#8 ∧ 0x30#8 ≤ 0x39#8) ∧ (0x41#8 ≤ 0x46#8 ∧ 0x46#8 ≤ 0x46#8)
      ∧ (0x61#8 ≤ 0x66#8 ∧ 0x66#8 ≤ 0x66#8)
      ∧ 0x2F#8 < 0x30#8 ∧ (0x39#8 < 0x3A#8 ∧ 0x3A#8 < 0x41#8) ∧ (0x46#8 < 0x60#8 ∧ 0x60#8 < 0x61#8)
      ∧ 0x66#8 < 0x67#8 := by decide

/-- For HexPairPutsTheFirstDigitInTheHighNibble and VerifyChecksTheDigitsBeforeTheChecksum. -/
theorem witness_digit_pairs : hexval 0x43#8 = some 0xC#4 ∧ hexval 0x30#8 = some 0x0#4
    ∧ hexval 0x63#8 = hexval 0x43#8 ∧ hexval 0x47#8 = none ∧ hexval 0x3A#8 = none := by decide

theorem witness_ComputeIsTheComplementOfTheFold : fold refTable [0x00#8] = fold refTable [] := by decide +kernel

theorem witness_SingleByteChangeChangesTheChecksum : refTable.Tab2 ∧ 0x31#8 ≠ 0x32#8 :=
  ⟨refTable_tab2, by decide⟩

/-- For the encoding clauses of the command statements: a word of each op with its ignored fields set. -/
theorem witness_command_words :
    (0x0FFFF#20).extractLsb' 16 4 = 0x0#4 ∧ (0x2FFFF#20).extractLsb' 16 4 = 0x2#4
      ∧ (0x3FFFF#20).extractLsb' 16 4 = 0x3#4 ∧ (0x4FF44#20).extractLsb' 16 4 = 0x4#4
      ∧ (0x5FFFF#20).extractLsb' 16 4 = 0x5#4 ∧ (0x66330#20).extractLsb' 16 4 = 0x6#4
      ∧ (0x7FF06#20).extractLsb' 16 4 = 0x7#4 ∧ (0x80000#20).getLsbD 19 = true
      ∧ (0xFFFFF#20).getLsbD 19 = true := by decide

theorem witness_IngestWhileIdleOpensOrDropsNoise :
    State.reset.buf = [] ∧ 0x02#8 ∉ [0x41#8, 0x0D#8, 0x03#8] := by decide

theorem witness_IngestTermValidatesTheCandidateFrame :
    (atRecord (withBuf [STX] 0x00#8)).buf ≠ []
      ∧ (atRecord (withBuf fullBuffer 0x00#8)).buf ≠ []
      ∧ (atRecord (withBuf fullBuffer 0x00#8)).buf.length ≤ Config.chip.maxScan :=
  ⟨by decide, by simp [atRecord, withBuf, fullBuffer], le_of_eq fullBuffer_length⟩

theorem witness_IngestInFrameAppendsOrOverruns :
    (1 ≤ (atRecord (withBuf [STX] 0x00#8)).len ∧ (atRecord (withBuf [STX] 0x00#8)).len ≤ Config.chip.maxScan)
      ∧ (1 ≤ (atRecord (withBuf fullBuffer 0x00#8)).len
        ∧ (atRecord (withBuf fullBuffer 0x00#8)).len = Config.chip.maxScan)
      ∧ 0x41#8 ≠ 0x0D#8 :=
  ⟨⟨by decide, Config.chip_legal.scanPos⟩,
    ⟨by show 1 ≤ fullBuffer.length; simp [fullBuffer], fullBuffer_length⟩, by decide⟩

theorem witness_CrcFinalReturnsTheRenderedComplement : State.reset.hacc = 0x00#8 := rfl

theorem witness_ReadCntReturnsTheCounter : 7 ≤ (0x07#8).toNat ∧ 7 ≤ (0xFF#8).toNat := by decide

/-- For EveryCommandReturnsOneResponse and the statements about what one command writes: commands
complete, with and without an event. -/
theorem witness_commands_complete :
    (∃ t, exec .nop State.reset = .next t) ∧ (∃ t, exec (.ingest 0x41#8) State.reset = .next t)
      ∧ (∀ b, Instr.nop ≠ .ingest b) ∧ Instr.nop ≠ .clear :=
  ⟨⟨_, rfl⟩, ⟨_, rfl⟩, by simp, by decide⟩

theorem witness_CounterIncrementWrapsAtItsWidth :
    refConfig.cntW ≤ 32 ∧ refConfig.counters = .present
      ∧ (⟨0xFFFFFFFF#32, 0, 0, 0, 0, 0, 0⟩ : Counters).value refConfig.cntW .noise = 2 ^ refConfig.cntW - 1
      ∧ CounterName.frames ≠ .noise
      ∧ ({ refConfig with counters := .absent } : Config).counters = .absent := by decide

theorem witness_CountersCannotChangeBehaviour :
    refConfig.table = ({ refConfig with counters := .absent, cntW := 1 } : Config).table
      ∧ FrameBlock.reset.AgreeButCounters { FrameBlock.reset with cnt := ⟨1, 2, 3, 4, 5, 6, 7⟩ }
      ∧ ∀ b, [Instr.nop][0]? ≠ some (.readCnt b) :=
  ⟨rfl, ⟨rfl, rfl, rfl, rfl⟩, by simp⟩

theorem witness_HostSequenceComputesTheChecksum :
    Instr.crcInit ∉ [.crcUpdate 0x44#8, .ingest 0x02#8, .clear, .crcUpdate 0x31#8, .readCnt 0x00#8] := by decide

/-- The clauses of ValidatorChecksInOrder: V-10 (no ETX), V-14 (first ETX before n - 4), V-06 and V-09
(digits good and bad at n - 3). -/
theorem witness_ValidatorChecksInOrder :
    (∀ i, 1 ≤ i → i + 4 ≤ [0x02#8, 0x44#8, 0x31#8, 0x43#8, 0x30#8, 0x0D#8].length →
      [0x02#8, 0x44#8, 0x31#8, 0x43#8, 0x30#8, 0x0D#8][i]? ≠ some ETX)
      ∧ (FirstEtxAt [0x02#8, 0x44#8, 0x31#8, 0x03#8, 0x43#8, 0x30#8, 0x20#8, 0x0D#8] 3
        ∧ 3 + 4 ≠ [0x02#8, 0x44#8, 0x31#8, 0x03#8, 0x43#8, 0x30#8, 0x20#8, 0x0D#8].length)
      ∧ refConfig.etxPolicy = .strictFirst
      ∧ (FirstEtxAt sourceFrame 3 ∧ 3 + 4 = sourceFrame.length
        ∧ sourceFrame[4]? = some 0x43#8 ∧ sourceFrame[5]? = some 0x30#8 ∧ hexval 0x43#8 = some 0xC#4
        ∧ hexval 0x30#8 = some 0x0#4 ∧ hexval 0x47#8 = none) :=
  ⟨firstEtx_eq_none.1 (by decide), ⟨firstEtx_eq_some.1 (by decide), by decide⟩, rfl, sourceFrame_firstEtx,
    by decide, by decide, by decide, by decide, by decide, by decide⟩

/-- A-18: the longest frame, B + 1 = 9 bytes, with the longest payload, B - 4 = 4 bytes, at B = 8. -/
def longestFrame : List Byte := [0x02#8, 0x41#8, 0x42#8, 0x43#8, 0x44#8, 0x03#8, 0x31#8, 0x45#8, 0x0D#8]

theorem longestFrame_candidate : CandidateFrame longestFrame :=
  candidateFrame_of_check (by decide) (by decide) (by decide) (by decide)

theorem witness_ValidPayloadIsBoundedAndUnframed :
    CandidateFrame longestFrame ∧ longestFrame.length = boundEight.maxScan + 1
      ∧ validate boundEight longestFrame = .valid [0x41#8, 0x42#8, 0x43#8, 0x44#8] :=
  ⟨longestFrame_candidate, by decide, by decide +kernel⟩

theorem witness_ShortestFrames : [0x02#8, 0x03#8, 0x46#8, 0x0D#8].length < 5 := by decide

theorem witness_SourceFrameValidatesUnderEveryTable : refConfig.Legal := refConfig_legal

/-- The first and the last payload byte of V-06 changed: under STRICT_FIRST to any other byte, ETX among
them, and under FIRST_LOOSE to a byte other than ETX. -/
theorem witness_MutatedPayloadNeverValidates :
    refConfig.table.Tab2 ∧ 1 ≤ 1 ∧ 2 ≤ [0x44#8, 0x31#8].length
      ∧ sourceFrame[1]? ≠ some 0x45#8 ∧ sourceFrame[2]? ≠ some 0x03#8
      ∧ (validate refConfig sourceFrame = .valid [0x44#8, 0x31#8] ∧ refConfig.etxPolicy = .strictFirst)
      ∧ (validate { refConfig with etxPolicy := .firstLoose } sourceFrame = .valid [0x44#8, 0x31#8]
        ∧ ({ refConfig with etxPolicy := .firstLoose } : Config).etxPolicy ≠ .strictFirst ∧ 0x45#8 ≠ 0x03#8) :=
  ⟨refTable_tab2, by decide, by decide, by decide, by decide, ⟨by decide +kernel, rfl⟩,
    ⟨by decide +kernel, by decide, by decide⟩⟩

theorem invBuf_open : InvBuf 8 [0x02#8, 0x41#8] :=
  .inr ⟨rfl, by decide, by decide, fun i h1 h2 => by
    have : i = 1 := by simp at h2; omega
    subst this; decide⟩

theorem witness_EmittedFramesAreCandidateFrames :
    InvBuf 8 [0x02#8, 0x41#8] ∧ assemble 8 [0x02#8, 0x41#8] 0x0D#8 = ([], .frame [0x02#8, 0x41#8, 0x0D#8]) :=
  ⟨invBuf_open, by decide⟩

theorem witness_ByteClassesDecideTheAssemblersRoles :
    [0x02#8] ≠ ([] : List Byte) ∧ byteClass 0x03#8 ≠ .term ∧ byteClass 0x02#8 ≠ .term := by decide

/-- A-14 split after its second byte: the longest frame at B = 8. -/
theorem witness_FeedEqualsChunkedPassWithoutOverrun :
    InvBuf 8 [0x02#8, 0x41#8]
      ∧ (assemblerPass 8 [0x02#8, 0x41#8] (List.replicate 6 0x41#8 ++ [0x0D#8])).overrun = false :=
  ⟨invBuf_open, by decide +kernel⟩

/-- A-16 split after its second byte. -/
theorem witness_FeedAndChunkedPassPartAtTheOverrun :
    InvBuf 8 [0x02#8, 0x41#8]
      ∧ (assemblerPass 8 [0x02#8, 0x41#8] (List.replicate 7 0x41#8 ++ sourceFrame)).overrun = true :=
  ⟨invBuf_open, by decide +kernel⟩

/-- From a frame begun in the buffer, at B = 8: the longest frame in two chunks, a discard (A-16) in two
chunks, and a stream of candidate frames of 2 and of B + 1 bytes in two chunks. -/
theorem witness_SplittingAStreamChangesNothing :
    1 ≤ boundEight.maxScan ∧ InvBuf boundEight.maxScan (withBuf [0x02#8, 0x41#8] 0x00#8).buf
      ∧ InvBuf boundEight.maxScan (withBuf [0x02#8] 0x00#8).buf
      ∧ (assemblerPass 8 [0x02#8, 0x41#8]
          [List.replicate 3 0x41#8, List.replicate 3 0x41#8 ++ [0x0D#8]].flatten).overrun = false
      ∧ (assemblerPass 8 [0x02#8, 0x41#8] [List.replicate 3 0x41#8, List.replicate 4 0x41#8 ++ sourceFrame].flatten).overrun
        = true
      ∧ [0x02#8] ++ [[0x0D#8, 0x02#8, 0x41#8, 0x42#8, 0x43#8], [0x44#8, 0x03#8, 0x31#8, 0x45#8, 0x0D#8]].flatten
        = [[0x02#8, 0x0D#8], longestFrame].flatten
      ∧ ∀ F ∈ [[0x02#8, 0x0D#8], longestFrame], CandidateFrame F ∧ F.length ≤ boundEight.maxScan + 1 :=
  ⟨by decide, invBuf_open,
    .inr ⟨rfl, by decide, by decide, fun i h1 h2 => by simp [withBuf] at h2; omega⟩,
    by decide +kernel, by decide +kernel, by decide, fun F hF => by
    rcases List.mem_cons.1 hF with rfl | hF
    · exact ⟨candidateFrame_of_check (by decide) (by decide) (by decide) (by decide), by decide⟩
    · rw [List.mem_singleton.1 hF]; exact ⟨longestFrame_candidate, by decide⟩⟩

theorem witness_GarbageWithoutStxIsDropped : 0x02#8 ∉ [0x41#8, 0x0D#8, 0x03#8, 0xFF#8] := by decide

theorem witness_AttemptIsDiscardedAtTheBound :
    0x0D#8 ∉ List.replicate 7 0x41#8 ∧ (List.replicate 7 0x41#8).length < 8
      ∧ 0x0D#8 ∉ List.replicate 8 0x41#8 ∧ (List.replicate 8 0x41#8).length = 8 := by decide

/-- The longest payload at B = 8. -/
theorem witness_WireFrameDeliversItsPayload :
    FrameBlock.reset.buf = [] ∧ 0x0D#8 ∉ [0x41#8, 0x42#8, 0x43#8, 0x44#8]
      ∧ 0x03#8 ∉ [0x41#8, 0x42#8, 0x43#8, 0x44#8]
      ∧ [0x41#8, 0x42#8, 0x43#8, 0x44#8].length + 4 ≤ boundEight.maxScan := by decide

theorem witness_ResetSignalWinsOverThePresentedCommand :
    ({ State.reset with port := [.reset (some 0x10041#20)] } : State).port = .reset (some 0x10041#20) :: [] := rfl

theorem witness_IdlePortHoldsTheState : State.reset.port = [] := rfl

theorem witness_StepRunsThePresentedCommand :
    (State.reset.present (.command 0x10002#20)).port = .command 0x10002#20 :: []
      ∧ (State.reset.present (.command 0x10002#20)).outReady = true
      ∧ (State.reset.present (.command 0x10002#20)).diagReady = true
      ∧ (State.reset.present (.command 0x10002#20)).respReady = true := ⟨rfl, rfl, rfl, rfl⟩

theorem witness_UnacceptedEntryHoldsTheCommand :
    ({ State.reset with port := [.command 0x10041#20], diagReady := false } : State).port
      = .command 0x10041#20 :: [] := rfl

/-- A state in the middle of a frame that meets the invariant, and a step from it. -/
theorem witness_EveryStepKeepsTheMachineInvariant :
    ({ atRecord (withBuf [STX] 0x00#8) with port := [.command 0x10041#20] } : State).Inv
      ∧ ∃ t, step { atRecord (withBuf [STX] 0x00#8) with port := [.command 0x10041#20] } = .next t :=
  ⟨⟨.inr ⟨rfl, by decide, Config.chip_legal.scanPos, fun i h1 h2 => by
      simp [atRecord, withBuf] at h2; omega⟩,
    fun k => by simp [atRecord, withBuf],
    by simp [CountersSum, atRecord, withBuf], by simp [atRecord, withBuf]⟩, ⟨_, rfl⟩⟩

end Sys2Proof.Tests
end

section
/-! SUPPORT. The state of spec/10_state.md: what one command does to each element of the record R20,
said once and for every configuration, and from it the statements about who writes the accumulator and
the buffer, about the traces and the counters as write-only elements, and about the invariant that every
step keeps. -/

namespace Sys2Proof.Machine

/-! ## Counters (R26) -/

/-- With counters absent an increment has no effect (R8). -/
theorem Counters.bump_of_absent {c : Config} (h : c.counters = .absent) (k : CounterName) (cs : Counters) :
    cs.bump c k = cs := by
  simp [Counters.bump, h]

/-- With counters present an increment leaves every other field as it is. -/
theorem Counters.get_bump_of_ne {c : Config} {j k : CounterName} (h : c.counters = .present) (hjk : j ≠ k)
    (cs : Counters) : (cs.bump c k).get j = cs.get j := by
  simp [Counters.bump, h, Counters.increment, Counters.get_set, hjk]

/-- With counters present and a width that fits the field, the named counter goes up by one modulo
2^CNT_W. -/
theorem Counters.value_bump_same {c : Config} (h : c.counters = .present) (hw : c.cntW ≤ 32)
    (k : CounterName) (cs : Counters) :
    (cs.bump c k).value c.cntW k = (cs.value c.cntW k + 1) % 2 ^ c.cntW := by
  have hfield : ((cs.get k).toNat + 1) % 2 ^ c.cntW < 2 ^ 32 :=
    (Nat.mod_lt _ (Nat.two_pow_pos _)).trans_le (Nat.pow_le_pow_right (by decide) hw)
  simp only [Counters.value, Counters.bump, h, Counters.increment, Counters.get_set_same, BitVec.toNat_ofNat,
    Nat.mod_eq_of_lt hfield, Nat.mod_mod, Nat.mod_add_mod]

/-- The value of any counter after an increment, as a residue modulo 2^CNT_W. -/
theorem Counters.cast_value_bump {c : Config} (h : c.counters = .present) (hw : c.cntW ≤ 32)
    (j k : CounterName) (cs : Counters) :
    (((cs.bump c k).value c.cntW j : ℕ) : ZMod (2 ^ c.cntW)) =
      cs.value c.cntW j + if j = k then 1 else 0 := by
  by_cases hjk : j = k
  · subst hjk
    rw [Counters.value_bump_same h hw, ZMod.natCast_mod]
    simp
  · simp [Counters.value, Counters.get_bump_of_ne h hjk, hjk]

/-- The sum invariant is an equation between residues modulo 2^CNT_W. -/
theorem countersSum_iff_cast {w : Nat} {cs : Counters} :
    CountersSum w cs ↔ (cs.value w .frames : ZMod (2 ^ w)) =
      cs.value w .valid + cs.value w .missingDelimiter + cs.value w .checksumMismatch
        + cs.value w .malformedChecksum := by
  have hlt : cs.value w .frames % 2 ^ w = cs.value w .frames := Nat.mod_mod _ _
  rw [CountersSum, ← hlt, ← ZMod.natCast_eq_natCast_iff', hlt]
  push_cast
  rfl

/-! ## What an event records (R167, R210) -/

/-- The counter of a validation result (R167). -/
def ValidationResult.counter : ValidationResult → CounterName
  | .valid _ => .valid
  | .missingDelimiter => .missingDelimiter
  | .checksumMismatch => .checksumMismatch
  | .malformedChecksum => .malformedChecksum

/-- The diagnostic code of a validation result (R67, R167). -/
def ValidationResult.diagCode : ValidationResult → DiagCode
  | .valid _ => .valid
  | .missingDelimiter => .missingDelimiter
  | .checksumMismatch => .checksumMismatch
  | .malformedChecksum => .malformedChecksum

/-- What one command adds to the elements FB never reads back into its behaviour: the counters it
increments, in order, and the entries it appends to the two traces. -/
structure Entries where
  counts   : List CounterName
  payloads : List (List Byte)
  codes    : List DiagCode

/-- A record with the entries of one command recorded. -/
def FrameBlock.addEntries (c : Config) (e : Entries) (fb : FrameBlock) : FrameBlock :=
  { fb with
    cnt  := e.counts.foldl (fun cs k => cs.bump c k) fb.cnt
    out  := fb.out ++ e.payloads
    diag := fb.diag ++ e.codes }

@[simp] theorem FrameBlock.addEntries_buf (c : Config) (e : Entries) (fb : FrameBlock) :
    (fb.addEntries c e).buf = fb.buf := rfl
@[simp] theorem FrameBlock.addEntries_hacc (c : Config) (e : Entries) (fb : FrameBlock) :
    (fb.addEntries c e).hacc = fb.hacc := rfl
@[simp] theorem FrameBlock.addEntries_cnt (c : Config) (e : Entries) (fb : FrameBlock) :
    (fb.addEntries c e).cnt = e.counts.foldl (fun cs k => cs.bump c k) fb.cnt := rfl
@[simp] theorem FrameBlock.addEntries_out (c : Config) (e : Entries) (fb : FrameBlock) :
    (fb.addEntries c e).out = fb.out ++ e.payloads := rfl
@[simp] theorem FrameBlock.addEntries_diag (c : Config) (e : Entries) (fb : FrameBlock) :
    (fb.addEntries c e).diag = fb.diag ++ e.codes := rfl

/-- Recording nothing. -/
@[simp] theorem FrameBlock.addEntries_empty (c : Config) (fb : FrameBlock) :
    fb.addEntries c ⟨[], [], []⟩ = fb := by
  simp [FrameBlock.addEntries]

/-- Recording a classified event is recording one count and one code (R210). -/
theorem FrameBlock.classify_eq_addEntries (c : Config) (k : CounterName) (d : DiagCode) (fb : FrameBlock) :
    fb.classify c k d = fb.addEntries c ⟨[k], [], [d]⟩ := by
  simp [FrameBlock.classify, FrameBlock.count, FrameBlock.emitDiag, FrameBlock.addEntries]

/-- The entries of an assembler event (R132 to R134, R167). -/
def AssemblerEvent.entries (c : Config) : AssemblerEvent → Entries
  | .opened => ⟨[], [], []⟩
  | .noise => ⟨[.noise], [], [.noiseDropped]⟩
  | .frame F => ⟨[.frames, (validate c F).counter], (validate c F).payload?.toList, [(validate c F).diagCode]⟩
  | .overrun => ⟨[.frameTooLong], [], [.frameTooLong]⟩
  | .appended => ⟨[], [], []⟩

/-- Recording a validation result adds its counter, its payload if it has one, and its code (R167). -/
theorem recordResult_eq_addEntries (c : Config) (r : ValidationResult) (fb : FrameBlock) :
    recordResult c r fb = fb.addEntries c ⟨[r.counter], r.payload?.toList, [r.diagCode]⟩ := by
  cases r with
  | valid p => rfl
  | missingDelimiter => exact fb.classify_eq_addEntries ..
  | checksumMismatch => exact fb.classify_eq_addEntries ..
  | malformedChecksum => exact fb.classify_eq_addEntries ..

/-- Handling an event records its entries and does nothing else (R131). -/
theorem handleEvent_eq_addEntries (c : Config) (ev : AssemblerEvent) (fb : FrameBlock) :
    handleEvent c ev fb = fb.addEntries c (ev.entries c) := by
  cases ev with
  | opened => exact (fb.addEntries_empty c).symm
  | noise => exact fb.classify_eq_addEntries ..
  | frame F => exact recordResult_eq_addEntries ..
  | overrun => exact fb.classify_eq_addEntries ..
  | appended => exact (fb.addEntries_empty c).symm

/-! ## What one command does to each element (R20)

Each element after a command is a function of what the command reads; the traces are read by none of
these functions, and the counters by the response of READ_CNT alone. -/

/-- The buffer after a command (R131, R136). -/
def bufAfter (B : Nat) (i : Instr) (buf : List Byte) : List Byte :=
  match i with
  | .ingest b => (assemble B buf b).1
  | .clear => []
  | _ => buf

/-- The accumulator after a command (R110, R111). -/
def haccAfter (T : Table) (i : Instr) (hacc : Byte) : Byte :=
  match i with
  | .crcInit => 0x00#8
  | .crcUpdate b => T (hacc ^^^ b)
  | _ => hacc

/-- The entries a command adds: those of the assembler's event under INGEST, and none else (R214). -/
def commandEntries (c : Config) (i : Instr) (buf : List Byte) : Entries :=
  match i with
  | .ingest b => (assemble c.maxScan buf b).2.entries c
  | _ => ⟨[], [], []⟩

/-- The record after any command (R12). -/
theorem commandStep_record (c : Config) (i : Instr) (fb : FrameBlock) :
    (commandStep c i fb).1 =
      ((fb.setBuf (bufAfter c.maxScan i fb.buf)).setHacc (haccAfter c.table i fb.hacc)).addEntries c
        (commandEntries c i fb.buf) := by
  cases i with
  | ingest b => exact handleEvent_eq_addEntries ..
  | nop | clear | crcInit | crcUpdate | crcFinal | crcVerify | readCnt | reserved =>
    exact (FrameBlock.addEntries_empty ..).symm

/-- The response to any command but READ_CNT reads the accumulator alone (R75). -/
theorem commandStep_response_congr (c c' : Config) {i : Instr} {fb fb' : FrameBlock}
    (hi : ∀ b, i ≠ .readCnt b) (hacc : fb.hacc = fb'.hacc) :
    (commandStep c i fb).2 = (commandStep c' i fb').2 := by
  cases i with
  | readCnt b => exact absurd rfl (hi b)
  | crcFinal => simp only [commandStep, crcFinal, hacc]
  | crcVerify a b => simp only [commandStep, crcVerify, hacc]
  | nop | ingest | clear | crcInit | crcUpdate | reserved => rfl

/-- No response reads the traces or the buffer (R27, R28, R31). -/
theorem commandStep_response_eq_of_hacc_cnt (c : Config) {i : Instr} {fb fb' : FrameBlock}
    (hacc : fb.hacc = fb'.hacc) (hcnt : fb.cnt = fb'.cnt) :
    (commandStep c i fb).2 = (commandStep c i fb').2 := by
  by_cases hi : ∃ b, i = .readCnt b
  · obtain ⟨b, rfl⟩ := hi
    simp only [commandStep, readCnt, hcnt]
  · exact commandStep_response_congr c c (fun b hb => hi ⟨b, hb⟩) hacc

/-- The record after a command that completes through `exec`. -/
theorem exec_record {i : Instr} {s t : State} (h : exec i s = .next t) :
    t.toFrameBlock = (commandStep Config.chip i s.toFrameBlock).1 := by
  rw [exec_next.1 h]

/-! ## Who writes the accumulator and the buffer -/

/-- The accumulator after a command, through `exec`. -/
theorem exec_hacc {i : Instr} {s t : State} (h : exec i s = .next t) :
    t.hacc = haccAfter Config.chip.table i s.hacc := by
  rw [exec_record h, commandStep_record, FrameBlock.addEntries_hacc, FrameBlock.setHacc_hacc]

/-- The buffer after a command, through `exec`. -/
theorem exec_buf {i : Instr} {s t : State} (h : exec i s = .next t) :
    t.buf = bufAfter Config.chip.maxScan i s.buf := by
  rw [exec_record h, commandStep_record, FrameBlock.addEntries_buf, FrameBlock.setHacc_buf,
    FrameBlock.setBuf_buf]

/-- Every command but INGEST and CLEAR keeps the buffer (R21). -/
theorem bufAfter_of_not_ingest_of_ne_clear (B : Nat) {i : Instr} (hi : ∀ b, i ≠ .ingest b) (hc : i ≠ .clear)
    (buf : List Byte) : bufAfter B i buf = buf := by
  cases i with
  | ingest b => exact absurd rfl (hi b)
  | clear => exact absurd rfl hc
  | nop | crcInit | crcUpdate | crcFinal | crcVerify | readCnt | reserved => rfl

/-! ## Configurations that differ in their counters alone -/

/-- The validator reads the table and the policy alone (R160). -/
theorem validate_congr {c c' : Config} (hT : c.table = c'.table) (hP : c.etxPolicy = c'.etxPolicy)
    (F : List Byte) : validate c F = validate c' F := by
  simp only [validate, hT, hP]

/-- The entries of a command do not depend on COUNTERS and CNT_W. -/
theorem commandEntries_congr {c c' : Config} (hT : c.table = c'.table) (hB : c.maxScan = c'.maxScan)
    (hP : c.etxPolicy = c'.etxPolicy) (i : Instr) (buf : List Byte) :
    commandEntries c i buf = commandEntries c' i buf := by
  have hev : ∀ ev : AssemblerEvent, ev.entries c = ev.entries c' := fun ev => by
    cases ev with
    | frame F => simp only [AssemblerEvent.entries, validate_congr hT hP F]
    | opened | noise | overrun | appended => rfl
  cases i with
  | ingest b => simp only [commandEntries, hB, hev]
  | nop | clear | crcInit | crcUpdate | crcFinal | crcVerify | readCnt | reserved => rfl

/-- One command keeps two records apart at most in their counters. -/
theorem FrameBlock.AgreeButCounters.commandStep {c c' : Config} {fb fb' : FrameBlock} (hT : c.table = c'.table)
    (hB : c.maxScan = c'.maxScan) (hP : c.etxPolicy = c'.etxPolicy) (h : fb.AgreeButCounters fb') (i : Instr) :
    (commandStep c i fb).1.AgreeButCounters (commandStep c' i fb').1 := by
  obtain ⟨hbuf, hhacc, hout, hdiag⟩ := h
  have hent := commandEntries_congr hT hB hP i fb'.buf
  simp [FrameBlock.AgreeButCounters, commandStep_record, hbuf, hhacc, hout, hdiag, hT, hB, hent]

/-- A run keeps two records apart at most in their counters, and answers every command but READ_CNT
alike. -/
theorem FrameBlock.AgreeButCounters.commandRun {c c' : Config} (hT : c.table = c'.table)
    (hB : c.maxScan = c'.maxScan) (hP : c.etxPolicy = c'.etxPolicy) (is : List Instr) :
    ∀ {fb fb' : FrameBlock}, fb.AgreeButCounters fb' →
      (commandRun c is fb).1.AgreeButCounters (commandRun c' is fb').1 ∧
      ∀ k : Nat, (∀ b, is[k]? ≠ some (Instr.readCnt b)) →
        (commandRun c is fb).2[k]? = (commandRun c' is fb').2[k]? := by
  induction is with
  | nil => exact fun h => ⟨h, fun _ _ => rfl⟩
  | cons i is ih =>
    intro fb fb' h
    obtain ⟨hrec, hresp⟩ := ih (h.commandStep hT hB hP i)
    refine ⟨hrec, fun k hk => ?_⟩
    cases k with
    | zero =>
      have hi : ∀ b, i ≠ .readCnt b := fun b hb => hk b (by rw [hb]; rfl)
      obtain ⟨-, hhacc, -⟩ := h
      exact congrArg some (commandStep_response_congr c c' hi hhacc)
    | succ k => exact hresp k fun b hb => hk b hb

/-! ## INV-BUF and candidate frames (R21, R62, R133) -/

/-- An STX alone meets INV-BUF (R132). -/
theorem InvBuf.stx {B : Nat} (hB : 1 ≤ B) : InvBuf B [STX] :=
  .inr ⟨rfl, le_rfl, hB, fun i h1 h2 => absurd h1 (by simpa using h2)⟩

/-- Below the bound, a byte other than TERM may join an attempt (R135). -/
theorem InvBuf.append {B : Nat} {buf : List Byte} {b : Byte} (h : InvBuf B buf) (hne : buf ≠ [])
    (hb : b ≠ TERM) (hlen : buf.length ≠ B) : InvBuf B (buf ++ [b]) := by
  obtain ⟨hstx, hpos, hle, hterm⟩ := h.resolve_left hne
  have hsucc : (buf ++ [b]).length = buf.length + 1 := by simp
  refine .inr ⟨by rwa [List.getElem?_append_left hpos], by omega, by omega, fun i h1 h2 => ?_⟩
  rcases Nat.lt_or_ge i buf.length with hi | hi
  · rw [List.getElem?_append_left hi]; exact hterm i h1 hi
  · obtain rfl : i = buf.length := by omega
    simpa using hb

/-- The assembler keeps INV-BUF (R131). -/
theorem InvBuf.assemble {B : Nat} {buf : List Byte} (hB : 1 ≤ B) (h : InvBuf B buf) (b : Byte) :
    InvBuf B (assemble B buf b).1 := by
  rcases assemble_cases B buf b with ⟨-, -, he⟩ | ⟨-, -, he⟩ | ⟨-, -, he⟩ | ⟨-, -, -, he⟩ |
    ⟨hne, hb, hlen, he⟩ <;> rw [he]
  · exact .stx hB
  · exact .inl rfl
  · exact .inl rfl
  · exact .inl rfl
  · exact h.append hne hb hlen

/-- Every command keeps INV-BUF. -/
theorem InvBuf.bufAfter {B : Nat} {buf : List Byte} (hB : 1 ≤ B) (h : InvBuf B buf) (i : Instr) :
    InvBuf B (bufAfter B i buf) := by
  cases i with
  | ingest b => exact h.assemble hB b
  | clear => exact .inl rfl
  | nop | crcInit | crcUpdate | crcFinal | crcVerify | readCnt | reserved => exact h

/-- A TERM completes a buffer that holds an attempt to a candidate frame (R62, R133). -/
theorem InvBuf.candidateFrame {B : Nat} {buf : List Byte} (h : InvBuf B buf) (hne : buf ≠ []) :
    CandidateFrame (buf ++ [TERM]) := by
  obtain ⟨hstx, hpos, -, hterm⟩ := h.resolve_left hne
  have hlen : (buf ++ [TERM]).length = buf.length + 1 := by simp
  refine ⟨by omega, by rwa [List.getElem?_append_left hpos], by simp, fun i h1 h2 => ?_⟩
  rw [List.getElem?_append_left (by omega)]
  exact hterm i h1 (by omega)

/-- That frame has at most B + 1 bytes (R68). -/
theorem InvBuf.length_frame_le {B : Nat} {buf : List Byte} (h : InvBuf B buf) :
    (buf ++ [TERM]).length ≤ B + 1 := by
  rcases h with rfl | ⟨-, -, hle, -⟩
  · simp
  · simpa using hle

/-! ## Payloads (R27, R168) -/

/-- A byte of a slice stands in the sequence at an index between the slice's ends. -/
theorem exists_of_mem_slice {s : List Byte} {i j : Nat} {x : Byte} (h : x ∈ slice s i j) :
    ∃ n, i ≤ n ∧ n ≤ j ∧ s[n]? = some x := by
  obtain ⟨k, hk⟩ := List.mem_iff_getElem?.1 h
  rw [slice_getElem?] at hk
  split at hk
  · exact ⟨i + k, by omega, by omega, hk⟩
  · cases hk

/-- The payload of a valid candidate frame of at most B + 1 bytes may be handed downstream. -/
theorem CandidateFrame.payloadFits {c : Config} {F p : List Byte} (hF : CandidateFrame F)
    (hlen : F.length ≤ c.maxScan + 1) (h : validate c F = .valid p) : PayloadFits c.maxScan p := by
  obtain ⟨e, he, -, rfl, -⟩ := validate_valid h
  have hlow := he.low
  have hhigh := he.high
  refine ⟨?_, fun hm => ?_, fun hm => ?_⟩
  · rw [slice_length (by omega)]; omega
  · obtain ⟨n, h1, h2, hn⟩ := exists_of_mem_slice hm
    exact hF.noInner n h1 (by omega) hn
  · obtain ⟨n, h1, h2, hn⟩ := exists_of_mem_slice hm
    exact he.least n h1 (by omega) hn

/-- What a command hands downstream from a buffer that meets INV-BUF fits. -/
theorem InvBuf.payloadFits {c : Config} {buf p : List Byte} (h : InvBuf c.maxScan buf) (i : Instr)
    (hp : p ∈ (commandEntries c i buf).payloads) : PayloadFits c.maxScan p := by
  cases i with
  | ingest b =>
    rcases assemble_cases c.maxScan buf b with ⟨-, -, he⟩ | ⟨-, -, he⟩ | ⟨hne, -, he⟩ | ⟨-, -, -, he⟩ |
      ⟨-, -, -, he⟩ <;> simp only [commandEntries, he, AssemblerEvent.entries, List.not_mem_nil] at hp
    cases hv : validate c (buf ++ [TERM]) with
    | valid q =>
      obtain rfl : p = q := by simpa [hv] using hp
      exact (h.candidateFrame hne).payloadFits h.length_frame_le hv
    | missingDelimiter | checksumMismatch | malformedChecksum => simp [hv] at hp
  | nop | clear | crcInit | crcUpdate | crcFinal | crcVerify | readCnt | reserved => cases hp

/-! ## The counters between commands (R26) -/

/-- Any sequence of increments keeps the counters within their width. -/
theorem CountersFit.foldl_bump {c : Config} (ks : List CounterName) {cs : Counters}
    (h : CountersFit c.cntW cs) : CountersFit c.cntW (ks.foldl (fun cs k => cs.bump c k) cs) := by
  induction ks generalizing cs with
  | nil => exact h
  | cons k ks ih => exact ih (h.bump k)

/-- A counter outside the sum may be incremented. -/
theorem CountersSum.bump_outside {c : Config} {cs : Counters} {k : CounterName} (hw : c.cntW ≤ 32)
    (hk : k = .noise ∨ k = .frameTooLong) (h : CountersSum c.cntW cs) : CountersSum c.cntW (cs.bump c k) := by
  cases hp : c.counters with
  | absent => rwa [Counters.bump_of_absent hp]
  | present =>
    rw [countersSum_iff_cast] at h ⊢
    rcases hk with rfl | rfl <;> simpa [Counters.cast_value_bump hp hw] using h

/-- A candidate frame and its validation result, counted together, keep the sum: both sides grow by
one. -/
theorem CountersSum.bump_frame_and_result {c : Config} {cs : Counters} (hw : c.cntW ≤ 32)
    (r : ValidationResult) (h : CountersSum c.cntW cs) :
    CountersSum c.cntW ((cs.bump c .frames).bump c r.counter) := by
  cases hp : c.counters with
  | absent => rwa [Counters.bump_of_absent hp, Counters.bump_of_absent hp]
  | present =>
    rw [countersSum_iff_cast] at h ⊢
    cases r <;> simp [Counters.cast_value_bump hp hw, ValidationResult.counter] <;> linear_combination h

/-- What a command counts keeps the sum. -/
theorem CountersSum.commandEntries {c : Config} {cs : Counters} (hw : c.cntW ≤ 32) (h : CountersSum c.cntW cs)
    (i : Instr) (buf : List Byte) :
    CountersSum c.cntW ((commandEntries c i buf).counts.foldl (fun cs k => cs.bump c k) cs) := by
  cases i with
  | ingest b =>
    show CountersSum c.cntW (((assemble c.maxScan buf b).2.entries c).counts.foldl _ cs)
    cases (assemble c.maxScan buf b).2 with
    | opened | appended => exact h
    | noise => exact h.bump_outside hw (.inl rfl)
    | frame F => exact h.bump_frame_and_result hw (validate c F)
    | overrun => exact h.bump_outside hw (.inr rfl)
  | nop | clear | crcInit | crcUpdate | crcFinal | crcVerify | readCnt | reserved => exact h

/-! ## The invariant of the record -/

/-- The reset values meet the invariant under every configuration (R32). -/
theorem FrameBlock.reset_inv (c : Config) : FrameBlock.reset.Inv c where
  bufInv := .inl rfl
  cntFit := fun k => by simp
  cntSum := by simp [CountersSum]
  outFits := by simp

/-- Every command keeps the invariant under every legal configuration. -/
theorem FrameBlock.Inv.commandStep {c : Config} {fb : FrameBlock} (hc : c.Legal) (h : fb.Inv c) (i : Instr) :
    (commandStep c i fb).1.Inv c := by
  rw [commandStep_record]
  exact {
    bufInv := h.bufInv.bufAfter hc.scanPos i
    cntFit := h.cntFit.foldl_bump _
    cntSum := h.cntSum.commandEntries hc.cntHigh i fb.buf
    outFits := fun p hp => (List.mem_append.1 hp).elim (h.outFits p) (h.bufInv.payloadFits i) }

/-! ## The statements -/

/-- Settles O55: each way a step can go keeps the record, resets it, or runs one command on it. -/
theorem everyStepKeepsTheMachineInvariant : Obligations.EveryStepKeepsTheMachineInvariant := by
  intro s t hs hstep
  rcases step_cases hstep with ⟨-, rfl⟩ | ⟨_, _, -, rfl⟩ | ⟨_, _, -, -, rfl⟩ | ⟨w, _, -, -, hexec⟩
  · exact hs
  · exact FrameBlock.reset_inv _
  · exact hs
  · rw [State.Inv, exec_record hexec]
    exact FrameBlock.Inv.commandStep Config.chip_legal hs (fetch w)

/-- Settles O29, from the value of a counter after an increment. -/
theorem counterIncrementWrapsAtItsWidth : Obligations.CounterIncrementWrapsAtItsWidth := by
  intro c k cs hw
  refine ⟨fun hp => ⟨Counters.value_bump_same hp hw k cs, fun hmax => ?_,
    fun j hj => Counters.get_bump_of_ne hp hj cs⟩, fun ha => Counters.bump_of_absent ha k cs⟩
  rw [Counters.value_bump_same hp hw, hmax, Nat.sub_add_cancel Nat.one_le_two_pow, Nat.mod_self]

/-- Settles O30: the record after a command and its response are given by functions of the buffer, the
accumulator and the counters. -/
theorem tracesAreNeverRead : Obligations.TracesAreNeverRead := by
  intro c i buf hacc cnt
  refine ⟨bufAfter c.maxScan i buf, haccAfter c.table i hacc,
    (commandEntries c i buf).counts.foldl (fun cs k => cs.bump c k) cnt,
    (commandEntries c i buf).payloads, (commandEntries c i buf).codes,
    (commandStep c i ⟨buf, hacc, cnt, [], []⟩).2, fun out diag => Prod.ext ?_ ?_⟩
  · exact commandStep_record c i _
  · exact commandStep_response_eq_of_hacc_cnt c rfl rfl

/-- Settles O31, by induction on the commands. -/
theorem countersCannotChangeBehaviour : Obligations.CountersCannotChangeBehaviour :=
  fun _ _ is _ _ hT hB hP h => h.commandRun hT hB hP is

/-- Settles O26: the accumulator after a command, read at each command. -/
theorem onlyCrcInitAndCrcUpdateWriteHacc : Obligations.OnlyCrcInitAndCrcUpdateWriteHacc := by
  intro i s t h
  have hacc := exec_hacc h
  cases i with
  | nop | ingest | clear | crcInit | crcUpdate | crcFinal | crcVerify | readCnt | reserved => exact hacc

/-- Settles O27: the buffer as a whole is kept, so each of its cells is. -/
theorem onlyIngestAndClearWriteTheBuffer : Obligations.OnlyIngestAndClearWriteTheBuffer := by
  intro i s t h hi hc n
  have hbuf : t.buf = s.buf := (exec_buf h).trans (bufAfter_of_not_ingest_of_ne_clear _ hi hc _)
  rw [FrameBlock.bufCell, FrameBlock.bufCell, hbuf]

/-- Settles O48, from the value of each element of the reset record. -/
theorem resetValuesAreThoseOfTheTable : Obligations.ResetValuesAreThoseOfTheTable :=
  ⟨rfl, rfl, rfl, fun _ => rfl, rfl, Counters.get_zero, rfl, rfl⟩

/-- Settles O54: the reset record meets the invariant under every configuration. -/
theorem invariantHoldsAtReset : Obligations.InvariantHoldsAtReset := FrameBlock.reset_inv Config.chip

end Sys2Proof.Machine
end

section
/-! SUPPORT. Commands at the port (spec/20_memory.md): what a step does with a presented command word, and
from it the statement that an accepted command is performed whole (R44), one per step and in the order
of the port (R47). -/

namespace Sys2Proof.Machine

/-- Taking the event at the head of the port leaves the events behind it. -/
theorem State.advancePort_of_port {s : State} {p : PortEvent} {rest : List PortEvent}
    (hport : s.port = p :: rest) : s.advancePort = { s with port := rest } := by
  simp [State.advancePort, hport]

/-- The step with a command word at the port: a held command stays there, any other is taken from it and
performed (R251, R254). -/
theorem step_of_port_command {s : State} {w : CommandWord} {rest : List PortEvent}
    (hport : s.port = .command w :: rest) :
    step s = if s.held (decode w) then .next s else exec (decode w) { s with port := rest } := by
  rw [← State.advancePort_of_port hport]
  rw [step, hport]
  rfl

/-- Settles O51: accepting consumers hold no command, so the presented one is performed. -/
theorem stepRunsThePresentedCommand : Obligations.StepRunsThePresentedCommand := by
  intro s w rest hport hout hdiag hresp
  rw [step_of_port_command hport, held_eq_false (decode w) hout hdiag hresp]
  exact if_neg Bool.false_ne_true

end Sys2Proof.Machine
end

section
/-! SUPPORT. The encodings of spec/30_encoding.md: the decoder and the encoder of command words (R70 to
R74), hexadecimal digits (R63 to R65), responses (R75, R76) and wire frames (R60 to R62, R69), and from
them the statements of that file. -/

namespace Sys2Proof.Laws

/-! ## The fields of a word (R70) -/

/-- A word under the mask of its operation field alone (R71). -/
theorem and_opMask {w : CommandWord} {op : OpField} (h : opField w = op) :
    w &&& 0xF0000#20 = packWord op 0#8 0#8 := by
  rw [← packWord_and_op _ (aField w) (bField w), ← h, packWord_fields]

/-- A word under the mask of its operation and second operand fields (R71). -/
theorem and_opBMask {w : CommandWord} {op : OpField} (h : opField w = op) :
    w &&& 0xF00FF#20 = packWord op 0#8 (bField w) := by
  rw [← packWord_and_low _ (aField w), ← h, packWord_fields]

/-- A word that holds a row's match under the row's mask has the row's operation (R71). -/
theorem opField_of_and_opMask {w : CommandWord} {op : OpField}
    (h : w &&& 0xF0000#20 = packWord op 0#8 0#8) : opField w = op := by
  simpa [and_opMask rfl] using congrArg opField h

/-- Bit 19 of a word is the top bit of its operation field. -/
theorem reservedOp_opField (w : CommandWord) : reservedOp (opField w) = w.getLsbD 19 := by
  simp [opField]

/-- The reserved row has the one mask of a single bit (R71). -/
theorem reservedOp_of_and_topMask {w : CommandWord} (h : w &&& 0x80000#20 = 0x80000#20) :
    reservedOp (opField w) = true := by
  rw [reservedOp_opField]
  simpa using congrArg (BitVec.getLsbD · 19) h

/-- The operation fields of the rows of the map (R71). -/
theorem opField_rows : ∀ op : OpField, op = 0x0#4 ∨ op = 0x1#4 ∨ op = 0x2#4 ∨ op = 0x3#4 ∨ op = 0x4#4
    ∨ op = 0x5#4 ∨ op = 0x6#4 ∨ op = 0x7#4 ∨ reservedOp op = true := by
  decide

/-! ## Decoding, row by row (R71, R72) -/

section
variable {w : CommandWord}

theorem decode_nop (h : opField w = 0x0#4) : decode w = .nop := by simp [decode, h]

theorem decode_ingest (h : opField w = 0x1#4) : decode w = .ingest (bField w) := by simp [decode, h]

theorem decode_clear (h : opField w = 0x2#4) : decode w = .clear := by simp [decode, h]

theorem decode_crcInit (h : opField w = 0x3#4) : decode w = .crcInit := by simp [decode, h]

theorem decode_crcUpdate (h : opField w = 0x4#4) : decode w = .crcUpdate (bField w) := by simp [decode, h]

theorem decode_crcFinal (h : opField w = 0x5#4) : decode w = .crcFinal := by simp [decode, h]

theorem decode_crcVerify (h : opField w = 0x6#4) : decode w = .crcVerify (aField w) (bField w) := by
  simp [decode, h]

theorem decode_readCnt (h : opField w = 0x7#4) : decode w = .readCnt (bField w) := by simp [decode, h]

theorem decode_reserved (h : reservedOp (opField w) = true) : decode w = .reserved (opField w) := by
  have hop : ∀ op : OpField, reservedOp op = true → 8 ≤ op.toNat := by decide
  have h8 := hop _ h
  unfold decode
  split
  case h_9 => rfl
  all_goals omega

end

/-- Every word is of exactly one row of the map, and decodes to the row's command (R71, R72). -/
theorem decode_cases (w : CommandWord) :
    (opField w = 0x0#4 ∧ decode w = .nop) ∨ (opField w = 0x1#4 ∧ decode w = .ingest (bField w))
    ∨ (opField w = 0x2#4 ∧ decode w = .clear) ∨ (opField w = 0x3#4 ∧ decode w = .crcInit)
    ∨ (opField w = 0x4#4 ∧ decode w = .crcUpdate (bField w)) ∨ (opField w = 0x5#4 ∧ decode w = .crcFinal)
    ∨ (opField w = 0x6#4 ∧ decode w = .crcVerify (aField w) (bField w))
    ∨ (opField w = 0x7#4 ∧ decode w = .readCnt (bField w))
    ∨ (reservedOp (opField w) = true ∧ decode w = .reserved (opField w)) :=
  (opField_rows (opField w)).imp (fun h => ⟨h, decode_nop h⟩) <| .imp (fun h => ⟨h, decode_ingest h⟩) <|
    .imp (fun h => ⟨h, decode_clear h⟩) <| .imp (fun h => ⟨h, decode_crcInit h⟩) <|
    .imp (fun h => ⟨h, decode_crcUpdate h⟩) <| .imp (fun h => ⟨h, decode_crcFinal h⟩) <|
    .imp (fun h => ⟨h, decode_crcVerify h⟩) <|
    .imp (fun h => ⟨h, decode_readCnt h⟩) (fun h => ⟨h, decode_reserved h⟩)

/-! ## Encoding (R74) -/

/-- The statement of the encoded fields holds of every command. -/
theorem encodedFields (i : Instr) : EncodedFields.Statement i := by
  cases i with
  | nop => exact EncodedFields.nop
  | ingest b => exact EncodedFields.ingest b
  | clear => exact EncodedFields.clear
  | crcInit => exact EncodedFields.crcInit
  | crcUpdate b => exact EncodedFields.crcUpdate b
  | crcFinal => exact EncodedFields.crcFinal
  | crcVerify a b => exact EncodedFields.crcVerify a b
  | readCnt b => exact EncodedFields.readCnt b
  | reserved op => exact EncodedFields.reserved op

/-- The mask of a reserved operation keeps no operand field. -/
theorem usedMask_of_reservedOp : ∀ {op : OpField}, reservedOp op = true → usedMask op = 0xF0000#20 := by
  decide

/-- Decoding undoes encoding. -/
theorem decode_encode {i : Instr} (h : i.WellFormed) : decode (encode i) = i := by
  obtain ⟨hop, -⟩ := encodedFields i h
  cases i with
  | nop => exact decode_nop hop
  | ingest b => rw [decode_ingest hop, encode, bField_packWord]
  | clear => exact decode_clear hop
  | crcInit => exact decode_crcInit hop
  | crcUpdate b => rw [decode_crcUpdate hop, encode, bField_packWord]
  | crcFinal => exact decode_crcFinal hop
  | crcVerify a b => rw [decode_crcVerify hop, encode, aField_packWord, bField_packWord]
  | readCnt b => rw [decode_readCnt hop, encode, bField_packWord]
  | reserved op =>
    have hop : opField (encode (.reserved op)) = op := hop
    rw [decode_reserved (by rw [hop]; exact h), hop]

/-- Every word decodes to a well-formed command. -/
theorem decode_wellFormed (w : CommandWord) : (decode w).WellFormed := by
  rcases decode_cases w with ⟨-, hd⟩ | ⟨-, hd⟩ | ⟨-, hd⟩ | ⟨-, hd⟩ | ⟨-, hd⟩ | ⟨-, hd⟩ | ⟨-, hd⟩ | ⟨-, hd⟩ |
    ⟨h, hd⟩
  iterate 8 · rw [hd]; rfl
  · rw [hd]; exact h

/-- Encoding a decoded word clears the fields its row ignores. -/
theorem encode_decode (w : CommandWord) : encode (decode w) = w &&& usedMask (opField w) := by
  rcases decode_cases w with ⟨h, hd⟩ | ⟨h, hd⟩ | ⟨h, hd⟩ | ⟨h, hd⟩ | ⟨h, hd⟩ | ⟨h, hd⟩ | ⟨h, hd⟩ | ⟨h, hd⟩ |
    ⟨h, hd⟩
  · rw [hd, h]; exact (and_opMask h).symm
  · rw [hd, h]; exact (and_opBMask h).symm
  · rw [hd, h]; exact (and_opMask h).symm
  · rw [hd, h]; exact (and_opMask h).symm
  · rw [hd, h]; exact (and_opBMask h).symm
  · rw [hd, h]; exact (and_opMask h).symm
  · rw [hd, h, encode, ← h, packWord_fields, h]; exact BitVec.and_allOnes.symm
  · rw [hd, h]; exact (and_opBMask h).symm
  · rw [hd, usedMask_of_reservedOp h]; exact (and_opMask rfl).symm

/-! ## The statements about the encoding -/

/-- Settles O1: an encoded command decodes to itself, and what its mask keeps is all of it. -/
theorem decodeOfEncodeIsTheCommand : Obligations.DecodeOfEncodeIsTheCommand := by
  intro i h
  obtain ⟨-, hmask⟩ := encodedFields i h
  refine ⟨decode_encode h, ?_⟩
  rw [← hmask, BitVec.and_assoc, BitVec.and_not_self]
  exact BitVec.and_zero

/-- Settles O2. -/
theorem encodeOfDecodeClearsIgnoredFields : Obligations.EncodeOfDecodeClearsIgnoredFields :=
  fun w => ⟨decode_wellFormed w, encode_decode w⟩

/-- Settles O3: a word under a row's mask gives its operation field, and that its row. -/
theorem operationMapDecodesEveryRow : Obligations.OperationMapDecodesEveryRow := fun _ =>
  ⟨fun h => decode_nop (opField_of_and_opMask h), fun h => decode_ingest (opField_of_and_opMask h),
    fun h => decode_clear (opField_of_and_opMask h), fun h => decode_crcInit (opField_of_and_opMask h),
    fun h => decode_crcUpdate (opField_of_and_opMask h), fun h => decode_crcFinal (opField_of_and_opMask h),
    fun h => decode_crcVerify (opField_of_and_opMask h), fun h => decode_readCnt (opField_of_and_opMask h),
    fun h => decode_reserved (reservedOp_of_and_topMask h)⟩

/-- Settles O4: each word by its row. -/
theorem sampleWordsDecodeToTheirCommands : Obligations.SampleWordsDecodeToTheirCommands :=
  ⟨decode_nop rfl, decode_ingest rfl, decode_crcUpdate rfl, decode_crcVerify rfl, decode_readCnt rfl,
    decode_reserved rfl⟩

end Sys2Proof.Laws

namespace Sys2Proof.Machine

/-! ## Hexadecimal digits (R63 to R65) -/

theorem hexval_of_decimal {b : Byte} (h1 : 0x30 ≤ b.toNat) (h2 : b.toNat ≤ 0x39) :
    hexval b = some (BitVec.ofNat 4 (b.toNat - 0x30)) :=
  if_pos ⟨h1, h2⟩

theorem hexval_of_upper {b : Byte} (h1 : 0x41 ≤ b.toNat) (h2 : b.toNat ≤ 0x46) :
    hexval b = some (BitVec.ofNat 4 (b.toNat - 0x37)) :=
  (if_neg (by omega)).trans (if_pos ⟨h1, h2⟩)

theorem hexval_of_lower {b : Byte} (h1 : 0x61 ≤ b.toNat) (h2 : b.toNat ≤ 0x66) :
    hexval b = some (BitVec.ofNat 4 (b.toNat - 0x57)) :=
  (if_neg (by omega)).trans <| (if_neg (by omega)).trans (if_pos ⟨h1, h2⟩)

/-- The bytes of R63's last row. -/
theorem hexval_of_other {b : Byte} (h1 : ¬ (0x30 ≤ b.toNat ∧ b.toNat ≤ 0x39))
    (h2 : ¬ (0x41 ≤ b.toNat ∧ b.toNat ≤ 0x46)) (h3 : ¬ (0x61 ≤ b.toNat ∧ b.toNat ≤ 0x66)) :
    hexval b = none :=
  (if_neg h1).trans <| (if_neg h2).trans (if_neg h3)

/-- A pair of digits that decode (R64). -/
theorem hexPair_of_hexval {hi lo : Byte} {h l : Nibble} (hh : hexval hi = some h) (hl : hexval lo = some l) :
    hexPair hi lo = some (h ++ l) :=
  hexPair_eq_some.2 ⟨h, l, hh, hl, rfl⟩

/-- A pair with a digit that does not decode (R64). -/
theorem hexPair_of_badHex {hi lo : Byte} (h : hexval hi = none ∨ hexval lo = none) : hexPair hi lo = none := by
  rw [Option.eq_none_iff_forall_ne_some]
  intro v hv
  obtain ⟨x, y, hx, hy, -⟩ := hexPair_eq_some.1 hv
  simp [hx, hy] at h

/-- R64's two spellings of the checksum byte agree: placing the nibbles side by side is shift and OR. -/
theorem nibbles_append (h l : Nibble) : h ++ l = (h.setWidth 8 <<< 4) ||| l.setWidth 8 := by
  simpa using BitVec.setWidth_append_eq_shiftLeft_setWidth_or (w'' := 8) (b := h) (b' := l)

/-- A byte is its two nibbles. -/
theorem highNibble_append_lowNibble (v : Byte) : highNibble v ++ lowNibble v = v :=
  BitVec.extractLsb'_append_extractLsb'

theorem highNibble_toNat (v : Byte) : (highNibble v).toNat = v.toNat / 16 := by
  have := v.isLt
  simp only [highNibble, BitVec.extractLsb'_toNat, Nat.shiftRight_eq_div_pow]
  omega

theorem lowNibble_toNat (v : Byte) : (lowNibble v).toNat = v.toNat % 16 := by
  simp [lowNibble]

/-- The character code of an upper-case digit (R65). -/
theorem hexDigit_toNat (k : Nibble) :
    (hexDigit k).toNat = if k.toNat ≤ 9 then 0x30 + k.toNat else 0x41 + (k.toNat - 10) := by
  have := k.isLt
  unfold hexDigit
  split <;> simp only [BitVec.toNat_ofNat] <;> omega

/-- Decoding undoes rendering (R65). -/
@[simp] theorem hexval_hexDigit (k : Nibble) : hexval (hexDigit k) = some k := by
  have hk := k.isLt
  have hcode := hexDigit_toNat k
  by_cases h9 : k.toNat ≤ 9
  · rw [if_pos h9] at hcode
    rw [hexval_of_decimal (by omega) (by omega), hcode, Nat.add_sub_cancel_left, BitVec.ofNat_toNat,
      BitVec.setWidth_eq]
  · rw [if_neg h9] at hcode
    rw [hexval_of_upper (by omega) (by omega), hcode, show 0x41 + (k.toNat - 10) - 0x37 = k.toNat by omega,
      BitVec.ofNat_toNat, BitVec.setWidth_eq]

/-- No framing marker is a digit, so no rendered digit is TERM (R61, R63). -/
theorem hexDigit_ne_term (k : Nibble) : hexDigit k ≠ TERM := by
  have hterm : hexval TERM = none := by decide
  intro h
  simpa [h, hterm] using hexval_hexDigit k

/-- The digit pair of a rendered byte is the byte (R65). -/
theorem hexPair_render (v : Byte) : hexPair (render v).1 (render v).2 = some v := by
  rw [render, hexPair_of_hexval (hexval_hexDigit _) (hexval_hexDigit _), highNibble_append_lowNibble]

/-- The rendered checksum of a sequence verifies under every table (R106). -/
theorem verify_render (T : Table) (s : List Byte) :
    verify T s (render (compute T s)).1 (render (compute T s)).2 = .isMatch := by
  rw [verify, compareDigits, hexPair_render]
  exact if_pos rfl

/-! ## Responses (R75, R76) -/

/-- Status 3 is never produced. -/
theorem Status.code_ne_three (st : Status) : st.code ≠ 3#2 := by cases st <;> decide

/-- The fields of CRC_FINAL's data. -/
theorem finalData_fields (v : Byte) :
    (finalData v).extractLsb' 24 8 = 0#8 ∧ (finalData v).extractLsb' 16 8 = (render v).1
      ∧ (finalData v).extractLsb' 8 8 = (render v).2 ∧ (finalData v).extractLsb' 0 8 = v := by
  refine ⟨?_, ?_, ?_, BitVec.extractLsb'_append_eq_right⟩
  · rw [finalData, BitVec.extractLsb'_append_eq_of_le (by decide), BitVec.extractLsb'_append_eq_of_le (by decide)]
    exact BitVec.extractLsb'_append_eq_left
  · rw [finalData, BitVec.extractLsb'_append_eq_of_le (by decide), BitVec.extractLsb'_append_eq_of_le (by decide)]
    exact BitVec.extractLsb'_append_eq_right
  · rw [finalData, BitVec.extractLsb'_append_eq_of_le (by decide)]
    exact BitVec.extractLsb'_append_eq_right

/-- The fields of CRC_VERIFY's data. -/
theorem verifyData_fields (r : VerifyResult) :
    (verifyData r).extractLsb' 2 30 = 0#30 ∧ (verifyData r).extractLsb' 0 2 = r.code := by
  cases r <;> decide

/-- An index that a counter has selects it (R26). -/
theorem counterOfIndex_of_eq_index {b : Byte} {k : CounterName} (h : b.toNat = k.index) :
    counterOfIndex b = some k := by
  unfold counterOfIndex
  rw [h]
  cases k <;> rfl

/-- Indices from 7 on select no counter (R26). -/
theorem counterOfIndex_of_seven_le {b : Byte} (h : 7 ≤ b.toNat) : counterOfIndex b = none := by
  unfold counterOfIndex
  split
  case h_8 => rfl
  all_goals omega

/-- Every index below 7 is a counter's (R26). -/
theorem CounterName.exists_index_eq : ∀ {n : Nat}, n < 7 → ∃ k : CounterName, n = k.index
  | 0, _ => ⟨.noise, rfl⟩
  | 1, _ => ⟨.frames, rfl⟩
  | 2, _ => ⟨.valid, rfl⟩
  | 3, _ => ⟨.missingDelimiter, rfl⟩
  | 4, _ => ⟨.checksumMismatch, rfl⟩
  | 5, _ => ⟨.malformedChecksum, rfl⟩
  | 6, _ => ⟨.frameTooLong, rfl⟩

/-- The value of a counter has its width. -/
theorem Counters.value_lt (cs : Counters) (w : Nat) (k : CounterName) : cs.value w k < 2 ^ w :=
  Nat.mod_lt _ (Nat.two_pow_pos w)

section
variable {c : Config} {b : Byte} {cs : Counters}

/-- READ_CNT without counters (R192). -/
theorem readCntResponse_of_absent (h : c.counters = .absent) :
    readCntResponse c b cs = respondErr .errReservedOp := by
  simp only [readCntResponse, h]

/-- READ_CNT of an index that selects no counter (R192). -/
theorem readCntResponse_of_seven_le (h : c.counters = .present) (hb : 7 ≤ b.toNat) :
    readCntResponse c b cs = respondErr .errBadIndex := by
  simp only [readCntResponse, h, counterOfIndex_of_seven_le hb]

/-- READ_CNT of a counter (R192). -/
theorem readCntResponse_of_eq_index {k : CounterName} (h : c.counters = .present) (hb : b.toNat = k.index) :
    readCntResponse c b cs = respondOk (BitVec.ofNat 32 (cs.value c.cntW k)) := by
  simp only [readCntResponse, h, counterOfIndex_of_eq_index hb]

/-- Everything READ_CNT can answer, and when (R192). -/
theorem readCntResponse_cases (c : Config) (b : Byte) (cs : Counters) :
    (c.counters = .absent ∧ readCntResponse c b cs = respondErr .errReservedOp)
    ∨ (c.counters = .present ∧ 7 ≤ b.toNat ∧ readCntResponse c b cs = respondErr .errBadIndex)
    ∨ (c.counters = .present ∧ ∃ k : CounterName, b.toNat = k.index
        ∧ readCntResponse c b cs = respondOk (BitVec.ofNat 32 (cs.value c.cntW k))) := by
  cases h : c.counters with
  | absent => exact .inl ⟨rfl, readCntResponse_of_absent h⟩
  | present =>
    rcases Nat.lt_or_ge b.toNat 7 with hb | hb
    · obtain ⟨k, hk⟩ := CounterName.exists_index_eq hb
      exact .inr (.inr ⟨rfl, k, hk, readCntResponse_of_eq_index h hk⟩)
    · exact .inr (.inl ⟨rfl, hb, readCntResponse_of_seven_le h hb⟩)

/-- A counter that is read fits the data word (R5, R75). -/
theorem toNat_ofNat_value (hw : c.cntW ≤ 32) (k : CounterName) :
    (BitVec.ofNat 32 (cs.value c.cntW k)).toNat = cs.value c.cntW k := by
  rw [BitVec.toNat_ofNat]
  exact Nat.mod_eq_of_lt ((cs.value_lt c.cntW k).trans_le (Nat.pow_le_pow_right (by decide) hw))

theorem readCntResponse_status_eq_errReservedOp :
    (readCntResponse c b cs).status = .errReservedOp ↔ c.counters = .absent := by
  rcases readCntResponse_cases c b cs with ⟨hc, hr⟩ | ⟨hc, -, hr⟩ | ⟨hc, _, -, hr⟩ <;>
    simp [hc, hr, respondErr, respondOk]

theorem readCntResponse_status_eq_errBadIndex :
    (readCntResponse c b cs).status = .errBadIndex ↔ c.counters = .present ∧ 7 ≤ b.toNat := by
  rcases readCntResponse_cases c b cs with ⟨hc, hr⟩ | ⟨hc, hb, hr⟩ | ⟨hc, k, hk, hr⟩
  · simp [hc, hr, respondErr]
  · simp [hc, hr, hb, respondErr]
  · have hlt : k.index < 7 := by cases k <;> decide
    simp [hr, hk, hlt, respondOk]

/-- An error of READ_CNT has data 0 (R75). -/
theorem readCntResponse_data_of_ne_ok (h : (readCntResponse c b cs).status ≠ .ok) :
    (readCntResponse c b cs).data = 0 := by
  rcases readCntResponse_cases c b cs with ⟨-, hr⟩ | ⟨-, -, hr⟩ | ⟨-, _, -, hr⟩
  · rw [hr]; rfl
  · rw [hr]; rfl
  · rw [hr] at h; exact absurd rfl h

/-- READ_CNT that succeeds answers the counter of its index (R75, R192). -/
theorem readCntResponse_data_of_ok {k : CounterName} (hw : c.cntW ≤ 32)
    (h : (readCntResponse c b cs).status = .ok) (hk : b.toNat = k.index) :
    (readCntResponse c b cs).data.toNat = cs.value c.cntW k := by
  cases hc : c.counters with
  | absent => rw [readCntResponse_of_absent hc] at h; cases h
  | present => rw [readCntResponse_of_eq_index hc hk]; exact toNat_ofNat_value hw k

/-- READ_CNT leaves every bit above the counter's width 0 (R75). -/
theorem readCntResponse_data_lt (hw : c.cntW ≤ 32) : (readCntResponse c b cs).data.toNat < 2 ^ c.cntW := by
  rcases readCntResponse_cases c b cs with ⟨-, hr⟩ | ⟨-, -, hr⟩ | ⟨-, k, -, hr⟩ <;> rw [hr]
  · exact Nat.two_pow_pos _
  · exact Nat.two_pow_pos _
  · exact (toNat_ofNat_value hw k).trans_lt (cs.value_lt c.cntW k)

end

/-- A command that answers an error has data 0 and changes nothing (R75). -/
theorem commandStep_of_status_ne_ok {c : Config} {i : Instr} {fb : FrameBlock}
    (h : (commandStep c i fb).2.status ≠ .ok) : (commandStep c i fb).2.data = 0 ∧ (commandStep c i fb).1 = fb := by
  cases i with
  | readCnt b => exact ⟨readCntResponse_data_of_ne_ok h, rfl⟩
  | reserved op => exact ⟨rfl, rfl⟩
  | nop | ingest | clear | crcInit | crcUpdate | crcFinal | crcVerify => exact absurd rfl h

/-! ## Runs of CRC_UPDATE and INGEST (R74) -/

/-- A run of CRC_UPDATEs folds its bytes into the accumulator (R111). -/
theorem commandRun_crcUpdates (c : Config) (bs : List Byte) (fb : FrameBlock) :
    commandRun c (bs.map .crcUpdate) fb =
      (fb.setHacc (foldFrom c.table fb.hacc bs), List.replicate bs.length (respondOk 0)) := by
  induction bs generalizing fb with
  | nil => rfl
  | cons b bs ih => simp only [List.map_cons, commandRun, commandStep, crcUpdate, ih]; rfl

/-- The buffer stays apart from what an event records. -/
theorem handleEvent_setBuf (c : Config) (ev : AssemblerEvent) (fb : FrameBlock) (x : List Byte) :
    handleEvent c ev (fb.setBuf x) = (handleEvent c ev fb).setBuf x := by
  rw [handleEvent_eq_addEntries, handleEvent_eq_addEntries]
  rfl

/-- The buffer stays apart from what a sequence of events records. -/
theorem foldl_handleEvent_setBuf (c : Config) (evs : List AssemblerEvent) (fb : FrameBlock) (x : List Byte) :
    evs.foldl (fun f ev => handleEvent c ev f) (fb.setBuf x) =
      (evs.foldl (fun f ev => handleEvent c ev f) fb).setBuf x := by
  induction evs generalizing fb with
  | nil => rfl
  | cons ev evs ih => rw [List.foldl_cons, List.foldl_cons, handleEvent_setBuf, ih]

/-- A run of INGESTs is the assembler's feed with its events recorded in order, each answered OK (R74,
R137). -/
theorem commandRun_ingestSeq (c : Config) (chunk : List Byte) (fb : FrameBlock) :
    commandRun c (ingestSeq chunk) fb =
      (((feed c.maxScan fb.buf chunk).2.foldl (fun f ev => handleEvent c ev f) fb).setBuf
        (feed c.maxScan fb.buf chunk).1, List.replicate chunk.length (respondOk 0)) := by
  induction chunk generalizing fb with
  | nil => rfl
  | cons b chunk ih =>
    have hbuf : (ingest c b fb).1.buf = (assemble c.maxScan fb.buf b).1 := handleEvent_buf ..
    have hrec : (ingest c b fb).1 = (handleEvent c (assemble c.maxScan fb.buf b).2 fb).setBuf
        (assemble c.maxScan fb.buf b).1 := handleEvent_setBuf ..
    have hrun : commandRun c (ingestSeq (b :: chunk)) fb =
        ((commandRun c (ingestSeq chunk) (ingest c b fb).1).1,
          respondOk 0 :: (commandRun c (ingestSeq chunk) (ingest c b fb).1).2) := rfl
    rw [hrun, ih, hbuf, hrec, foldl_handleEvent_setBuf, feed_cons, List.foldl_cons]
    rfl

/-! ## The assembler, byte by byte (R61, R62, R131) -/

/-- The framing markers are the bytes of their classes (R61). -/
theorem byteClass_iff (b : Byte) :
    (byteClass b = .stx ↔ b = STX) ∧ (byteClass b = .etx ↔ b = ETX) ∧ (byteClass b = .term ↔ b = TERM) := by
  unfold byteClass
  split_ifs with hstx hetx hterm
  · subst hstx; decide
  · subst hetx; decide
  · subst hterm; decide
  · simp [hstx, hetx, hterm]

/-- While IDLE (R132). -/
theorem assemble_nil (B : Nat) (b : Byte) :
    assemble B [] b = if b = STX then ([STX], .opened) else ([], .noise) := rfl

section
variable {B : Nat} {buf : List Byte}

/-- A TERM while IN_FRAME (R133). -/
theorem assemble_term (hne : buf ≠ []) : assemble B buf TERM = ([], .frame (buf ++ [TERM])) := by
  simp [assemble, hne]

/-- Any other byte while IN_FRAME (R134, R135). -/
theorem assemble_of_ne_term {b : Byte} (hne : buf ≠ []) (hb : b ≠ TERM) :
    assemble B buf b = if buf.length = B then ([], .overrun) else (buf ++ [b], .appended) := by
  simp [assemble, hne, hb]

/-- A frame is emitted exactly for a TERM while IN_FRAME (R133). -/
theorem assemble_eq_frame {buf' F : List Byte} {b : Byte} :
    assemble B buf b = (buf', .frame F) ↔ buf ≠ [] ∧ b = TERM ∧ buf' = [] ∧ F = buf ++ [TERM] := by
  rcases assemble_cases B buf b with ⟨hn, -, he⟩ | ⟨hn, -, he⟩ | ⟨hn, hb, he⟩ | ⟨-, hb, -, he⟩ | ⟨-, hb, -, he⟩ <;>
    rw [he]
  · simp [hn]
  · simp [hn]
  · simp [hn, hb, eq_comm]
  · simp [hb]
  · simp [hb]

/-- Bytes other than TERM join an attempt up to the bound (R135). -/
theorem feed_of_term_notMem {xs : List Byte} (hne : buf ≠ []) (hx : TERM ∉ xs)
    (hlen : buf.length + xs.length ≤ B) :
    feed B buf xs = (buf ++ xs, List.replicate xs.length .appended) := by
  induction xs generalizing buf with
  | nil => simp
  | cons b xs ih =>
    obtain ⟨hb, hxs⟩ := not_or.1 (mt List.mem_cons.2 hx)
    rw [List.length_cons] at hlen
    have hstep : assemble B buf b = (buf ++ [b], .appended) := by
      rw [assemble_of_ne_term hne (Ne.symm hb), if_neg (by omega)]
    have hrest := ih (buf := buf ++ [b]) (by simp) hxs (by simp; omega)
    rw [feed_cons, hstep, hrest]
    simp [List.replicate_succ]

/-- STX, fewer than B bytes without TERM, and TERM are one attempt that completes (R62, R68). -/
theorem feed_frame {xs : List Byte} (hx : TERM ∉ xs) (hlen : xs.length < B) :
    feed B [] ([STX] ++ xs ++ [TERM]) =
      ([], AssemblerEvent.opened :: List.replicate xs.length .appended ++ [.frame ([STX] ++ xs ++ [TERM])]) := by
  have hopen : feed B [] [STX] = ([STX], [.opened]) := rfl
  have hbody : feed B [STX] xs = ([STX] ++ xs, List.replicate xs.length .appended) :=
    feed_of_term_notMem (by simp) hx (by simp; omega)
  have hterm : feed B ([STX] ++ xs) [TERM] = ([], [.frame ([STX] ++ xs ++ [TERM])]) := by
    rw [feed_cons, assemble_term (by simp), feed_nil]
  rw [feed_append, feed_append, hopen, hbody, hterm]
  rfl

end

/-- What an attempt that completes records is what its frame records (R131). -/
theorem foldl_handleEvent_frame (c : Config) (n : Nat) (F : List Byte) (fb : FrameBlock) :
    (AssemblerEvent.opened :: List.replicate n .appended ++ [AssemblerEvent.frame F]).foldl
        (fun f ev => handleEvent c ev f) fb =
      handleEvent c (.frame F) fb := by
  have happended : (List.replicate n AssemblerEvent.appended).foldl (fun f ev => handleEvent c ev f) fb = fb := by
    induction n with
    | zero => rfl
    | succ n ih => exact ih
  rw [List.foldl_append, List.foldl_cons]
  exact congrArg (handleEvent c (.frame F)) happended

/-! ## The validator on wire frames (R60, R69) -/

/-- A frame too short for a first ETX is classed at once (R69, R161). -/
theorem validate_of_length_lt_five (c : Config) {F : List Byte} (h : F.length < 5) :
    validate c F = .missingDelimiter := by
  have hnone : firstEtx F = none := firstEtx_eq_none.2 fun i h1 h2 => by omega
  rw [validate, hnone]

/-- Past a first ETX that the policy accepts, the digits decide (R162). -/
theorem validate_eq_checkDigits {c : Config} {F : List Byte} {e : Nat} (he : FirstEtxAt F e)
    (hp : c.etxPolicy = .strictFirst → e = F.length - 4) : validate c F = checkDigits c.table F e := by
  rw [validate, firstEtx_eq_some.2 he]
  exact if_neg fun h => h.2 (hp h.1)

/-- A wire frame is STX, a body, and TERM. -/
theorem wireFrame_eq (T : Table) (p : List Byte) :
    wireFrame T p =
      [STX] ++ (p ++ [ETX, (render (compute T p)).1, (render (compute T p)).2]) ++ [TERM] := by
  simp [wireFrame]

theorem wireFrame_length (T : Table) (p : List Byte) : (wireFrame T p).length = p.length + 5 := by
  simp [wireFrame]

/-- The wire frame around the empty payload is the same under every table (R69). -/
theorem wireFrame_nil (T : Table) : wireFrame T [] = [0x02#8, 0x03#8, 0x46#8, 0x46#8, 0x0D#8] := by
  have hsum : compute T [] = 0xFF#8 := by simp [compute, fold, not8]
  rw [wireFrame, hsum]
  rfl

/-- The first ETX of a wire frame is the one behind its payload (R60, R161). -/
theorem wireFrame_firstEtxAt (T : Table) {p : List Byte} (h : ETX ∉ p) :
    FirstEtxAt (wireFrame T p) (p.length + 1) where
  low := by omega
  high := by rw [wireFrame_length]
  isEtx := by simp [wireFrame]
  least := by
    intro i h1 hi hetx
    obtain ⟨j, rfl⟩ := Nat.exists_eq_add_of_le' h1
    have hj : j < p.length := by omega
    have hpj : p[j]? = some ETX := by simpa [wireFrame, List.getElem?_append_left hj] using hetx
    exact h (List.mem_of_getElem? hpj)

/-- A wire frame around a payload without ETX validates, under either policy, with that payload. -/
theorem validate_wireFrame (c : Config) {p : List Byte} (h : ETX ∉ p) :
    validate c (wireFrame c.table p) = .valid p := by
  have hslice : slice (wireFrame c.table p) 1 (p.length + 1 - 1) = p := by simp [slice, wireFrame]
  have hhi : byteAt (wireFrame c.table p) (p.length + 1 + 1) = (render (compute c.table p)).1 :=
    byteAt_eq (by simp [wireFrame])
  have hlo : byteAt (wireFrame c.table p) (p.length + 1 + 2) = (render (compute c.table p)).2 :=
    byteAt_eq (by simp [wireFrame])
  rw [validate_eq_checkDigits (wireFrame_firstEtxAt _ h) fun _ => by rw [wireFrame_length]; omega,
    checkDigits, hslice, hhi, hlo, verify_render]

/-- Ingesting a wire frame from IDLE records its frame and leaves IDLE (R60, R131). -/
theorem commandRun_ingestFrame {c : Config} {p : List Byte} {fb : FrameBlock} (hbuf : fb.buf = [])
    (hterm : TERM ∉ p) (hlen : p.length + 4 ≤ c.maxScan) :
    commandRun c (ingestFrame c.table p) fb =
      (handleEvent c (.frame (wireFrame c.table p)) fb, List.replicate (p.length + 5) (respondOk 0)) := by
  have hbody : TERM ∉ p ++ [ETX, (render (compute c.table p)).1, (render (compute c.table p)).2] := by
    have hetx : TERM ≠ ETX := by decide
    simp [hterm, hetx, render, (hexDigit_ne_term _).symm]
  have hfeed := feed_frame (B := c.maxScan) hbody (by simp; omega)
  rw [← wireFrame_eq] at hfeed
  have hidle : (handleEvent c (.frame (wireFrame c.table p)) fb).setBuf [] =
      handleEvent c (.frame (wireFrame c.table p)) fb := by
    rw [← handleEvent_setBuf, ← hbuf]
    rfl
  rw [ingestFrame, commandRun_ingestSeq, hbuf, hfeed, foldl_handleEvent_frame, hidle, wireFrame_length]

/-! ## The statements about digits, responses and wire frames -/

/-- Settles O25: the response of each command, read field by field. -/
theorem everyCommandReturnsOneResponse : Obligations.EveryCommandReturnsOneResponse := by
  refine ⟨rfl, rfl, rfl, fun i s => ⟨_, (commandStep Config.chip i s.toFrameBlock).2, exec_next.2 rfl, rfl,
    Status.code_ne_three _, commandStep_of_status_ne_ok, ?_⟩⟩
  have hw := Config.chip_legal.cntHigh
  cases i with
  | crcFinal => exact ⟨rfl, finalData_fields _⟩
  | crcVerify a b => exact ⟨rfl, verifyData_fields _⟩
  | readCnt b =>
    exact ⟨readCntResponse_status_eq_errReservedOp, readCntResponse_status_eq_errBadIndex,
      fun k => readCntResponse_data_of_ok hw, readCntResponse_data_lt hw⟩
  | reserved op => rfl
  | nop | ingest | clear | crcInit | crcUpdate => exact ⟨rfl, rfl⟩

/-- Settles O33: CRC_INIT, the run of updates from 0, and CRC_FINAL, in order. -/
theorem crcSeqComputesTheChecksum : Obligations.CrcSeqComputesTheChecksum := by
  intro c bs fb
  rw [crcSeq, commandRun_append]
  simp only [commandRun, commandRun_crcUpdates]
  rfl

/-- Settles O39: the emitted frame is the buffer with its TERM. -/
theorem emittedFramesAreCandidateFrames : Obligations.EmittedFramesAreCandidateFrames := by
  intro B buf buf' F b hinv hframe
  obtain ⟨hne, -, rfl, rfl⟩ := assemble_eq_frame.1 hframe
  have hcand := hinv.candidateFrame hne
  exact ⟨hcand, hcand.two, hinv.length_frame_le, rfl⟩

/-- Settles O47: the frame is emitted whole, and validates with the payload. -/
theorem wireFrameDeliversItsPayload : Obligations.WireFrameDeliversItsPayload := by
  intro c p fb hbuf hterm hetx hlen
  rw [commandRun_ingestFrame hbuf hterm hlen, handleEvent, validateAndEmit, validate_wireFrame c hetx]
  rfl

/-- Settles O5, one clause per row of R63. -/
theorem hexvalDecodesTheThreeDigitRanges : Obligations.HexvalDecodesTheThreeDigitRanges := by
  intro b
  have hnibble : ∀ n < 16, (some (BitVec.ofNat 4 n)).map BitVec.toNat = some n := by decide
  simp only [BitVec.le_def, BitVec.lt_def, BitVec.toNat_ofNat]
  refine ⟨fun h1 h2 => ?_, fun h1 h2 => ?_, fun h1 h2 => ?_, fun h => ?_⟩
  · rw [hexval_of_decimal h1 h2]; exact hnibble _ (by omega)
  · rw [hexval_of_upper h1 h2]; exact hnibble _ (by omega)
  · rw [hexval_of_lower h1 h2]; exact hnibble _ (by omega)
  · exact hexval_of_other (by omega) (by omega) (by omega)

/-- Settles O6. -/
theorem hexPairPutsTheFirstDigitInTheHighNibble : Obligations.HexPairPutsTheFirstDigitInTheHighNibble :=
  fun _ _ => ⟨fun h l hh hl => nibbles_append h l ▸ hexPair_of_hexval hh hl, hexPair_of_badHex⟩

/-- Settles O7, nibble by nibble. -/
theorem renderIsUpperCaseAndHexvalInvertsIt : Obligations.RenderIsUpperCaseAndHexvalInvertsIt := by
  intro v
  refine ⟨?_, ?_, hexval_hexDigit _, hexval_hexDigit _, hexPair_render v⟩
  · rw [render, hexDigit_toNat, highNibble_toNat]
  · rw [render, hexDigit_toNat, lowNibble_toNat]

/-- Settles O36: the frame of 5 bytes is the wire frame around the empty payload. -/
theorem shortestFrames : Obligations.ShortestFrames := by
  refine ⟨?_, fun c F => validate_of_length_lt_five c, fun c => ?_⟩
  · exact (InvBuf.stx le_rfl).candidateFrame (by simp)
  · rw [← wireFrame_nil c.table]; exact validate_wireFrame c List.not_mem_nil

/-- Settles O40, from the arms of the assembler. -/
theorem byteClassesDecideTheAssemblersRoles : Obligations.ByteClassesDecideTheAssemblersRoles := by
  intro b
  obtain ⟨hstx, hetx, hterm⟩ := byteClass_iff b
  refine ⟨hstx, hetx, hterm, fun B => ?_, fun B buf hne => ?_⟩
  · rw [assemble_nil, ne_eq, hstx]
    by_cases hb : b = STX <;> simp [hb]
  · rw [ne_eq, hterm]
    by_cases hb : b = TERM
    · simp [hb, assemble_term hne]
    · rw [assemble_of_ne_term hne hb]
      split <;> simp [hb]

end Sys2Proof.Machine

end

section
/-! SUPPORT. The checksums of spec/40_crc8.md: folds, the constraints on the table, digit verification
(R100 to R106) and the host CRC commands (R110 to R114); with what TAB-1 and TAB-2 say of the validator's
frames (R160), and from them the statements of that file. -/

namespace Sys2Proof.Machine

/-! ## Checksums (R102, R103) -/

/-- The checksum of the empty sequence. -/
theorem compute_nil (T : Table) : compute T [] = 0xFF#8 := BitVec.xor_zero

/-- The checksum of one byte. -/
theorem compute_singleton (T : Table) (b : Byte) : compute T [b] = not8 (T b) := by
  rw [compute, fold, foldFrom_cons, foldFrom_nil, BitVec.zero_xor]

/-- The checksum of a concatenation goes on folding from the first part's fold. -/
theorem compute_append (T : Table) (s t : List Byte) :
    compute T (s ++ t) = not8 (foldFrom T (fold T s) t) :=
  congrArg not8 (foldFrom_append T 0x00#8 s t)

/-- TAB-1 fixes the fold of one sequence, that of the source's example (R103). -/
theorem fold_of_tab1 {T : Table} (h : T.Tab1) : fold T [0x44#8, 0x31#8] = 0x3F#8 := by
  rw [fold, foldFrom_cons, foldFrom_cons, foldFrom_nil, BitVec.zero_xor, h]

/-- Over an injective table, two sequences that differ in one byte have different checksums: the
accumulators part at that byte, and no later byte brings them together again. -/
theorem compute_ne_of_byte_ne {T : Table} (hT : Function.Injective T) (s t : List Byte) {x y : Byte}
    (hxy : x ≠ y) : compute T (s ++ x :: t) ≠ compute T (s ++ y :: t) := by
  rw [compute_append, compute_append, foldFrom_cons, foldFrom_cons]
  intro h
  have hentry : T (fold T s ^^^ x) = T (fold T s ^^^ y) := foldFrom_injective hT t (not8_injective h)
  exact hxy (BitVec.xor_right_inj _ |>.1 (hT hentry))

/-- The same with the changed byte named by its index. -/
theorem compute_set_ne {T : Table} (hT : Function.Injective T) {s : List Byte} {k : Nat} {x : Byte}
    (hk : k < s.length) (hx : s[k] ≠ x) : compute T (s.set k x) ≠ compute T s := by
  have hsplit : s = s.take k ++ s[k] :: s.drop (k + 1) := by simp
  rw [List.set_eq_take_append_cons_drop, if_pos hk]
  conv_rhs => rw [hsplit]
  exact compute_ne_of_byte_ne hT _ _ hx.symm

/-! ## Verification (R105, R106) -/

/-- A digit that is not hexadecimal is found first, whatever the accumulator (R105). -/
theorem compareDigits_of_badHex (acc : Byte) {hi lo : Byte} (h : hexval hi = none ∨ hexval lo = none) :
    compareDigits acc hi lo = .badHex := by
  rw [compareDigits, hexPair_of_badHex h]

/-- Two digits that decode are compared with the complement of the accumulator (R105). -/
theorem compareDigits_of_hexval (acc : Byte) {hi lo : Byte} {h l : Nibble} (hh : hexval hi = some h)
    (hl : hexval lo = some l) :
    compareDigits acc hi lo =
      if (h.setWidth 8 <<< 4) ||| l.setWidth 8 = not8 acc then .isMatch else .mismatch := by
  rw [compareDigits, hexPair_of_hexval hh hl, nibbles_append]

/-- A comparison reads its digits through `hexval` alone (R105). -/
theorem compareDigits_congr (acc : Byte) {hi lo hi' lo' : Byte} (hh : hexval hi' = hexval hi)
    (hl : hexval lo' = hexval lo) : compareDigits acc hi' lo' = compareDigits acc hi lo := by
  rw [compareDigits, compareDigits, hexPair, hexPair, hh, hl]

/-- The lower-case spelling of a digit decodes to its value too (R63): up to 9 it is the same character,
from 10 on it stands in the range of the small letters. -/
@[simp] theorem hexval_hexDigitLower (k : Nibble) : hexval (hexDigitLower k) = some k := by
  have hk := k.isLt
  by_cases h9 : k.toNat ≤ 9
  · have hsame : hexDigitLower k = hexDigit k := by rw [hexDigitLower, hexDigit, if_pos h9, if_pos h9]
    rw [hsame, hexval_hexDigit]
  · have hcode : (hexDigitLower k).toNat = 0x57 + k.toNat := by
      rw [hexDigitLower, if_neg h9, BitVec.toNat_ofNat]; omega
    rw [hexval_of_lower (by omega) (by omega), hcode, Nat.add_sub_cancel_left, BitVec.ofNat_toNat,
      BitVec.setWidth_eq]

/-- The two spellings of a rendered checksum verify alike (R106). -/
theorem verify_renderLower (T : Table) (s : List Byte) (v : Byte) :
    verify T s (renderLower v).1 (renderLower v).2 = verify T s (render v).1 (render v).2 :=
  compareDigits_congr _ ((hexval_hexDigitLower _).trans (hexval_hexDigit _).symm)
    ((hexval_hexDigitLower _).trans (hexval_hexDigit _).symm)

/-! ## The host accumulator over a run of commands (R114) -/

/-- One command folds its update bytes, none or one, into the accumulator, CRC_INIT alone excepted. -/
theorem haccAfter_eq_foldFrom (T : Table) {i : Instr} (hi : i ≠ .crcInit) (acc : Byte) :
    haccAfter T i acc = foldFrom T acc (updateBytes [i]) := by
  cases i with
  | crcInit => exact absurd rfl hi
  | crcUpdate b => rfl
  | nop | ingest | clear | crcFinal | crcVerify | readCnt | reserved => rfl

/-- The update bytes of a sequence are those of its commands in order. -/
theorem updateBytes_cons (i : Instr) (is : List Instr) :
    updateBytes (i :: is) = updateBytes [i] ++ updateBytes is := by
  cases i with
  | crcUpdate b => rfl
  | nop | ingest | clear | crcInit | crcFinal | crcVerify | readCnt | reserved => rfl

/-- The accumulator after one command (R24). -/
theorem commandStep_hacc (c : Config) (i : Instr) (fb : FrameBlock) :
    (commandStep c i fb).1.hacc = haccAfter c.table i fb.hacc := by
  rw [commandStep_record, FrameBlock.addEntries_hacc, FrameBlock.setHacc_hacc]

/-- A run without CRC_INIT folds its update bytes into the accumulator, whatever stands between them. -/
theorem commandRun_hacc (c : Config) {is : List Instr} (his : .crcInit ∉ is) (fb : FrameBlock) :
    (commandRun c is fb).1.hacc = foldFrom c.table fb.hacc (updateBytes is) := by
  induction is generalizing fb with
  | nil => rfl
  | cons i is ih =>
    obtain ⟨hi, hrest⟩ := not_or.1 (mt List.mem_cons.2 his)
    calc (commandRun c (i :: is) fb).1.hacc
        = foldFrom c.table (commandStep c i fb).1.hacc (updateBytes is) := ih hrest _
      _ = foldFrom c.table (foldFrom c.table fb.hacc (updateBytes [i])) (updateBytes is) := by
        rw [commandStep_hacc, haccAfter_eq_foldFrom _ (Ne.symm hi)]
      _ = foldFrom c.table fb.hacc (updateBytes (i :: is)) := by
        rw [updateBytes_cons i is, foldFrom_append]

/-! ## Frames and the table's constraints (R103, R160) -/

/-- The result of validation that a digit comparison gives (R163 to R165). -/
def VerifyResult.validation (p : List Byte) : VerifyResult → ValidationResult
  | .isMatch => .valid p
  | .mismatch => .checksumMismatch
  | .badHex => .malformedChecksum

/-- Past the first ETX, validation is verification of the payload (R162 to R165). -/
theorem checkDigits_eq_validation (T : Table) (F : List Byte) (e : Nat) :
    checkDigits T F e =
      (verify T (slice F 1 (e - 1)) (byteAt F (e + 1)) (byteAt F (e + 2))).validation (slice F 1 (e - 1)) := by
  unfold checkDigits
  cases verify T (slice F 1 (e - 1)) (byteAt F (e + 1)) (byteAt F (e + 2)) <;> rfl

/-- The frame "D1" with any digits validates as its digits verify. -/
theorem validate_d1 (c : Config) (hi lo : Byte) :
    validate c [0x02#8, 0x44#8, 0x31#8, 0x03#8, hi, lo, 0x0D#8] =
      (verify c.table [0x44#8, 0x31#8] hi lo).validation [0x44#8, 0x31#8] := by
  have hetx : FirstEtxAt [0x02#8, 0x44#8, 0x31#8, 0x03#8, hi, lo, 0x0D#8] 3 := firstEtx_eq_some.1 rfl
  rw [validate_eq_checkDigits hetx fun _ => rfl, checkDigits_eq_validation]
  rfl

/-- A change at an index before the first ETX, to another byte than ETX, leaves the first ETX where it
is. -/
theorem FirstEtxAt.set {F : List Byte} {e i : Nat} {x : Byte} (h : FirstEtxAt F e) (hi : i < e)
    (hx : x ≠ ETX) : FirstEtxAt (F.set i x) e where
  low := h.low
  high := by rw [List.length_set]; exact h.high
  isEtx := by rw [List.getElem?_set_ne hi.ne]; exact h.isEtx
  least := by
    intro j hj1 hje hj
    by_cases hij : i = j
    · subst hij
      have hlen : i < F.length := by have := h.high; omega
      rw [List.getElem?_set_self hlen] at hj
      exact hx (Option.some.inj hj)
    · rw [List.getElem?_set_ne hij] at hj
      exact h.least j hj1 hje hj

/-- A frame has at most one first ETX. -/
theorem FirstEtxAt.unique {F : List Byte} {e e' : Nat} (h : FirstEtxAt F e) (h' : FirstEtxAt F e') : e = e' :=
  Option.some.inj ((firstEtx_eq_some.2 h).symm.trans (firstEtx_eq_some.2 h'))

/-- A change inside a slice, seen in the slice. -/
theorem slice_set (s : List Byte) {a i : Nat} (b : Nat) (x : Byte) (h : a ≤ i) :
    slice (s.set i x) a b = (slice s a b).set (i - a) x := by
  rw [slice, slice, List.drop_set, if_neg (by omega), List.take_set]

/-- A change at another index is not seen at this one. -/
theorem byteAt_set_ne (F : List Byte) {i j : Nat} (x : Byte) (h : i ≠ j) : byteAt (F.set i x) j = byteAt F j := by
  rw [byteAt, byteAt, List.getD_eq_getElem?_getD, List.getD_eq_getElem?_getD, List.getElem?_set_ne h]

/-! ## The statements -/

/-- Settles O38: the change keeps the first ETX and the digits, so a second valid result would make two
sequences that differ in one byte share a checksum. -/
theorem mutatedPayloadNeverValidates : Obligations.MutatedPayloadNeverValidates := by
  intro c F p i x hT hF hi1 hip hx hpol q hq
  obtain ⟨e, he, hstrict, rfl, hsum⟩ := validate_valid hF
  obtain ⟨e', he', hstrict', rfl, hsum'⟩ := validate_valid hq
  have hlow := he.low
  have hhigh := he.high
  have hlen : (slice F 1 (e - 1)).length = e - 1 := by rw [slice_length (by omega)]; omega
  have hetx : e = e' := by
    rcases hpol with hs | hne
    · rw [hstrict hs, hstrict' hs, List.length_set]
    · exact (he.set (by omega) hne).unique he'
  subst hetx
  rw [slice_set F _ x hi1, byteAt_set_ne F x (by omega), byteAt_set_ne F x (by omega), hsum,
    Option.some.injEq] at hsum'
  have hbyte : (slice F 1 (e - 1))[i - 1]? ≠ some x := by
    rwa [slice_getElem?, if_pos (by omega), Nat.add_sub_cancel' hi1]
  have hk : i - 1 < (slice F 1 (e - 1)).length := by omega
  rw [List.getElem?_eq_getElem hk, ne_eq, Option.some.injEq] at hbyte
  exact compute_set_ne hT.injective hk hbyte hsum'.symm

/-- Settles O32: CRC_INIT gives the accumulator 0, the run folds its update bytes into it, and CRC_FINAL
and CRC_VERIFY answer from it. -/
theorem hostSequenceComputesTheChecksum : Obligations.HostSequenceComputesTheChecksum := by
  intro is s his T bs
  refine ⟨_, execRun_eq _ s, ?_⟩
  have hacc : (commandRun Config.chip (.crcInit :: is) s.toFrameBlock).1.hacc = fold T bs :=
    commandRun_hacc Config.chip his (crcInit s.toFrameBlock).1
  generalize commandRun Config.chip (.crcInit :: is) s.toFrameBlock = r at hacc ⊢
  refine ⟨hacc, ⟨_, finalData (not8 r.1.hacc), exec_next.2 rfl, rfl, ?_⟩,
    fun hi lo => ⟨_, verifyData (compareDigits r.1.hacc hi lo), exec_next.2 rfl, rfl, ?_⟩⟩
  · obtain ⟨-, hhi, hlo, hsum⟩ := finalData_fields (compute T bs)
    rw [hacc]
    exact ⟨hsum, hhi, hlo⟩
  · obtain ⟨-, hcode⟩ := verifyData_fields (verify T bs hi lo)
    rw [hacc]
    exact hcode

/-- Settles O8. -/
theorem computeIsTheComplementOfTheFold : Obligations.ComputeIsTheComplementOfTheFold := fun T =>
  ⟨fun _ => rfl, compute_nil T, compute_singleton T, compute_append T, fun _ _ h => congrArg not8 h⟩

/-- Settles O10: TAB-2 makes the table injective. -/
theorem singleByteChangeChangesTheChecksum : Obligations.SingleByteChangeChangesTheChecksum :=
  fun _ s t _ _ hT hxy => compute_ne_of_byte_ne hT.injective s t hxy

/-- Settles O13: the lower-case spelling verifies as the rendered one does. -/
theorem renderedChecksumVerifies : Obligations.RenderedChecksumVerifies := fun T s =>
  ⟨verify_render T s, (verify_renderLower T s _).trans (verify_render T s)⟩

/-- Settles O9, from the legality of the chip's table. -/
theorem chipTableMeetsBothConstraints : Obligations.ChipTableMeetsBothConstraints :=
  ⟨congrArg not8 (fold_of_tab1 Config.chip_legal.tab1), Config.chip_legal.tab2.injective⟩

/-- Settles O11: the 256 entries are compared one by one. -/
theorem refTableIsGeneratedByItsPolynomial : Obligations.RefTableIsGeneratedByItsPolynomial :=
  ⟨by decide +kernel, refTable_tab1, refTable_tab2⟩

/-- Settles O12. -/
theorem verifyChecksTheDigitsBeforeTheChecksum : Obligations.VerifyChecksTheDigitsBeforeTheChecksum :=
  fun _ _ _ _ => ⟨compareDigits_of_badHex _, fun _ _ => compareDigits_of_hexval _,
    fun _ _ => compareDigits_congr _⟩

/-- Settles O19. -/
theorem crcInitZeroesTheAccumulator : Obligations.CrcInitZeroesTheAccumulator :=
  ⟨fun _ => Laws.decode_crcInit, fun _ => exec_next.2 rfl⟩

/-- Settles O20. -/
theorem crcUpdateFoldsOneByte : Obligations.CrcUpdateFoldsOneByte :=
  ⟨fun _ => Laws.decode_crcUpdate, fun _ _ => exec_next.2 rfl⟩

/-- Settles O21. -/
theorem crcFinalReturnsTheRenderedComplement : Obligations.CrcFinalReturnsTheRenderedComplement := by
  have hzero : finalData (not8 0x00#8) = 0x004646FF#32 := by decide
  refine ⟨fun _ => Laws.decode_crcFinal, fun s => exec_next.2 rfl, fun s hs => ?_⟩
  rw [exec_next, ← hzero, ← hs]
  rfl

/-- Settles O22: the digits decode or not, and their byte is compared or not. -/
theorem crcVerifyReturnsTheResultCode : Obligations.CrcVerifyReturnsTheResultCode := by
  refine ⟨fun _ => Laws.decode_crcVerify, fun a b s => ?_⟩
  have hexec : exec (.crcVerify a b) s = .next { s with
      responses := s.responses ++ [⟨.ok, verifyData (compareDigits s.hacc a b)⟩] } := exec_next.2 rfl
  rw [hexec]
  cases ha : hexval a with
  | none => rw [compareDigits_of_badHex _ (.inl ha)]; rfl
  | some h =>
    cases hb : hexval b with
    | none => rw [compareDigits_of_badHex _ (.inr hb)]; rfl
    | some l => rw [compareDigits_of_hexval _ ha hb, apply_ite verifyData]; rfl

/-- Settles O37: TAB-1 gives the fold of "D1", with whose complement the three pairs of digits are compared. -/
theorem sourceFrameValidatesUnderEveryTable : Obligations.SourceFrameValidatesUnderEveryTable := by
  intro c hc
  have hverify (hi lo : Byte) : verify c.table [0x44#8, 0x31#8] hi lo = compareDigits 0x3F#8 hi lo := by
    rw [verify, fold_of_tab1 hc.tab1]
  refine ⟨?_, ?_, ?_⟩ <;> rw [validate_d1, hverify] <;> rfl

end Sys2Proof.Machine

end

section
/-! SUPPORT. The assembler of spec/41_assembler.md: INGEST from each state of the controller (R131 to R135),
CLEAR (R136), and the byte-serial feed against the source's chunked pass (R130, R137, R138). One byte of
the pass does what one byte of the feed does, up to the feed's first overrun; the statements about the two
follow from that. -/

namespace Sys2Proof.Machine

/-! ## The shapes of buffers and candidate frames (R21, R62) -/

/-- Behind its first byte, a sequence holds no TERM exactly when no index from 1 on does. -/
theorem term_notMem_iff (x : Byte) (xs : List Byte) :
    TERM ∉ xs ↔ ∀ i, 1 ≤ i → (x :: xs)[i]? ≠ some TERM := by
  rw [List.mem_iff_getElem?, not_exists]
  refine ⟨fun h i hi => ?_, fun h i => h (i + 1) (by omega)⟩
  obtain ⟨j, rfl⟩ := Nat.exists_eq_add_of_le' hi
  exact h j

/-- A buffer with an attempt is STX and fewer than B bytes other than TERM. -/
theorem InvBuf.exists_eq_cons {B : Nat} {buf : List Byte} (h : InvBuf B buf) (hne : buf ≠ []) :
    ∃ xs, buf = STX :: xs ∧ TERM ∉ xs ∧ xs.length < B := by
  obtain ⟨hstx, -, hle, hterm⟩ := h.resolve_left hne
  obtain ⟨x, xs, rfl⟩ := List.exists_cons_of_ne_nil hne
  obtain rfl : x = STX := by simpa using hstx
  refine ⟨xs, rfl, (term_notMem_iff STX xs).2 fun i hi hx => ?_, hle⟩
  exact hterm i hi (List.getElem?_eq_some_iff.1 hx).1 hx

/-- A candidate frame is STX, bytes other than TERM, and TERM. -/
theorem CandidateFrame.exists_eq {F : List Byte} (h : CandidateFrame F) :
    ∃ xs, F = [STX] ++ xs ++ [TERM] ∧ TERM ∉ xs := by
  obtain ⟨htwo, hfirst, hlast, hinner⟩ := h
  rcases List.eq_nil_or_concat F with rfl | ⟨G, y, rfl⟩
  · simp at htwo
  obtain rfl : y = TERM := by simpa using hlast
  cases G with
  | nil => simp at htwo
  | cons x xs =>
    obtain rfl : x = STX := by simpa using hfirst
    refine ⟨xs, by simp, (term_notMem_iff STX xs).2 fun i hi hx => ?_⟩
    have hlt := (List.getElem?_eq_some_iff.1 hx).1
    refine hinner i hi (by simp at hlt ⊢; omega) ?_
    rw [List.concat_eq_append, List.getElem?_append_left hlt, hx]

/-! ## The feed (R131 to R135) -/

/-- The first element's image, if it has one, stands at the front. -/
theorem filterMap_cons_eq_toList_append {α β : Type} (f : α → Option β) (a : α) (l : List α) :
    (a :: l).filterMap f = (f a).toList ++ l.filterMap f := by
  simp only [List.filterMap_eq_flatMap_toList, List.flatMap_cons]

section
variable {B : Nat} {buf : List Byte}

/-- An attempt is discarded exactly at the bound, by a byte other than TERM (R134). -/
theorem assemble_eq_overrun {b : Byte} :
    (assemble B buf b).2 = .overrun ↔ buf ≠ [] ∧ b ≠ TERM ∧ buf.length = B := by
  rcases assemble_cases B buf b with ⟨hn, -, he⟩ | ⟨hn, -, he⟩ | ⟨-, hb, he⟩ | ⟨hn, hb, hl, he⟩ | ⟨-, -, hl, he⟩ <;>
    rw [he]
  · simp [hn]
  · simp [hn]
  · simp [hb]
  · simp [hn, hb, hl]
  · simp [hl]

/-- The discard empties the buffer (R134). -/
theorem assemble_of_overrun {b : Byte} (h : (assemble B buf b).2 = .overrun) :
    assemble B buf b = ([], .overrun) := by
  obtain ⟨hne, hb, hlen⟩ := assemble_eq_overrun.1 h
  rw [assemble_of_ne_term hne hb, if_pos hlen]

/-- The feed keeps INV-BUF. -/
theorem InvBuf.feed (hB : 1 ≤ B) (h : InvBuf B buf) (xs : List Byte) : InvBuf B (feed B buf xs).1 := by
  induction xs generalizing buf with
  | nil => exact h
  | cons b xs ih => exact ih (h.assemble hB b)

/-- The frames of a feed, one byte more at the front. -/
theorem feedFrames_cons (b : Byte) (chunk : List Byte) :
    feedFrames B buf (b :: chunk) =
      (assemble B buf b).2.frame?.toList ++ feedFrames B (assemble B buf b).1 chunk :=
  filterMap_cons_eq_toList_append ..

/-- A feed that discards splits at its first discard. -/
theorem exists_first_overrun {chunk : List Byte} (h : .overrun ∈ (feed B buf chunk).2) :
    ∃ pre b post, chunk = pre ++ b :: post ∧ .overrun ∉ (feed B buf pre).2
      ∧ assemble B (feed B buf pre).1 b = ([], .overrun) := by
  induction chunk generalizing buf with
  | nil => cases h
  | cons b chunk ih =>
    by_cases hov : (assemble B buf b).2 = .overrun
    · exact ⟨[], b, chunk, rfl, List.not_mem_nil, assemble_of_overrun hov⟩
    · obtain ⟨pre, b', post, rfl, hpre, hb'⟩ := ih ((List.mem_cons.1 h).resolve_left (Ne.symm hov))
      exact ⟨b :: pre, b', post, rfl, by simp [feed_cons, Ne.symm hov, hpre], hb'⟩

/-- Bytes other than STX, fed from IDLE, are noise one by one (R132). -/
theorem feed_noise {xs : List Byte} (hx : STX ∉ xs) : feed B [] xs = ([], List.replicate xs.length .noise) := by
  induction xs with
  | nil => rfl
  | cons b xs ih =>
    obtain ⟨hb, hxs⟩ := not_or.1 (mt List.mem_cons.2 hx)
    rw [feed_cons, assemble_nil, if_neg (Ne.symm hb), ih hxs]
    rfl

/-- A feed from IDLE that starts with STX goes on from the opened attempt (R132). -/
theorem feed_nil_stx (xs : List Byte) :
    feed B [] (STX :: xs) = ((feed B [STX] xs).1, .opened :: (feed B [STX] xs).2) := rfl

end

/-! ## What a feed hands downstream (R133, R167) -/

/-- The payload an event hands downstream is that of its frame, if it validates. -/
theorem AssemblerEvent.entries_payloads (c : Config) (ev : AssemblerEvent) :
    (ev.entries c).payloads = (ev.frame?.toList).filterMap fun F => (validate c F).payload? := by
  cases ev with
  | frame F =>
    show (validate c F).payload?.toList = [F].filterMap _
    rw [filterMap_cons_eq_toList_append, List.filterMap_nil, List.append_nil]
  | opened | noise | overrun | appended => rfl

/-- Handling events in order appends to `out` the payloads of those of their frames that validate. -/
theorem foldl_handleEvent_out (c : Config) (evs : List AssemblerEvent) (fb : FrameBlock) :
    (evs.foldl (fun f ev => handleEvent c ev f) fb).out =
      fb.out ++ (evs.filterMap AssemblerEvent.frame?).filterMap fun F => (validate c F).payload? := by
  induction evs generalizing fb with
  | nil => simp
  | cons ev evs ih =>
    rw [List.foldl_cons, ih, handleEvent_eq_addEntries, FrameBlock.addEntries_out, ev.entries_payloads,
      filterMap_cons_eq_toList_append, List.filterMap_append, List.append_assoc]

/-- Ingesting chunk after chunk is ingesting their concatenation. -/
theorem flatMap_ingestSeq (chunks : List (List Byte)) : chunks.flatMap ingestSeq = ingestSeq chunks.flatten :=
  List.map_flatten.symm

/-- The record after ingesting chunk after chunk: the feed's buffer, and its events recorded in order. -/
theorem commandRun_flatMap_ingestSeq (c : Config) (chunks : List (List Byte)) (fb : FrameBlock) :
    (commandRun c (chunks.flatMap ingestSeq) fb).1 =
      ((feed c.maxScan fb.buf chunks.flatten).2.foldl (fun f ev => handleEvent c ev f) fb).setBuf
        (feed c.maxScan fb.buf chunks.flatten).1 := by
  rw [flatMap_ingestSeq, commandRun_ingestSeq]

/-! ## The search of the chunked pass (R130) -/

/-- The search finds nothing when no TERM stands in the scan positions 1..B. -/
theorem firstTerm_eq_none {B : Nat} {x : Byte} {xs : List Byte} (h : TERM ∉ xs.take B) :
    firstTerm B (x :: xs) = none := by
  simp only [firstTerm, List.find?_eq_none, List.mem_range, Bool.and_eq_true, decide_eq_true_eq, not_and]
  intro i hi h1 hx
  obtain ⟨j, rfl⟩ := Nat.exists_eq_add_of_le' h1
  have hj : j < B := by omega
  have htake : (xs.take B)[j]? = some TERM := by rwa [List.getElem?_take_of_lt hj]
  exact h (List.mem_of_getElem? htake)

/-- The search finds a TERM behind fewer than B other bytes. -/
theorem firstTerm_eq_some {B : Nat} (x : Byte) {xs : List Byte} (ys : List Byte) (hx : TERM ∉ xs)
    (hlen : xs.length < B) : firstTerm B (x :: (xs ++ TERM :: ys)) = some (xs.length + 1) := by
  rw [firstTerm, List.find?_range_eq_some]
  refine ⟨by simp, by simp; omega, fun j hj => ?_⟩
  cases j with
  | zero => rfl
  | succ j =>
    have hne : xs[j]? ≠ some TERM := fun h => hx (List.mem_of_getElem? h)
    simpa [List.getElem?_append_left (show j < xs.length by omega)] using hne

/-! ## The rounds of the chunked pass (R130) -/

/-- A result with frames emitted before it. -/
def PassResult.addFrames (Fs : List (List Byte)) (r : PassResult) : PassResult :=
  { r with frames := Fs ++ r.frames }

theorem PassResult.addFrames_addFrames (Fs Gs : List (List Byte)) (r : PassResult) :
    (r.addFrames Gs).addFrames Fs = r.addFrames (Fs ++ Gs) := by
  simp [addFrames]

/-- A byte other than STX at the front is dropped. -/
theorem passLoop_of_ne_stx (B n : Nat) {b : Byte} (rest : List Byte) (hb : b ≠ STX) :
    passLoop B (n + 1) (b :: rest) = passLoop B n rest := by
  rw [passLoop, if_pos hb]

/-- A TERM found behind an STX ends a frame, and the pass goes on behind it. -/
theorem passLoop_of_firstTerm (B n : Nat) {rest : List Byte} {i : Nat} (h : firstTerm B (STX :: rest) = some i) :
    passLoop B (n + 1) (STX :: rest) =
      (passLoop B n (rest.drop i)).addFrames [STX :: rest.take i] := by
  rw [passLoop, if_neg (by simp), h]
  rfl

/-- Without a TERM in the scan positions the pass ends: it discards at the bound and waits below it. -/
theorem passLoop_of_no_term (B n : Nat) {rest : List Byte} (h : firstTerm B (STX :: rest) = none) :
    passLoop B (n + 1) (STX :: rest) = if B ≤ rest.length then ⟨[], [], true⟩ else ⟨STX :: rest, [], false⟩ := by
  rw [passLoop, if_neg (by simp), h]

/-- Any bound on the rounds above the buffer's length gives the same result: each round shortens it. -/
theorem passLoop_congr {B n m : Nat} {l : List Byte} (hn : l.length < n) (hm : l.length < m) :
    passLoop B n l = passLoop B m l := by
  induction n generalizing m l with
  | zero => omega
  | succ n ih =>
    obtain ⟨m, rfl⟩ : ∃ k, m = k + 1 := ⟨m - 1, by omega⟩
    cases l with
    | nil => rfl
    | cons b rest =>
      rw [List.length_cons] at hn hm
      by_cases hb : b = STX
      · subst hb
        cases hf : firstTerm B (STX :: rest) with
        | none => rw [passLoop_of_no_term B n hf, passLoop_of_no_term B m hf]
        | some i =>
          have hdrop : (rest.drop i).length ≤ rest.length := by simp
          rw [passLoop_of_firstTerm B n hf, passLoop_of_firstTerm B m hf,
            ih (m := m) (by omega) (by omega)]
      · rw [passLoop_of_ne_stx B n rest hb, passLoop_of_ne_stx B m rest hb,
          ih (m := m) (by omega) (by omega)]

/-! ## The chunked pass, byte by byte (R130, R137) -/

section
variable {B : Nat} {buf : List Byte}

/-- The pass reads its buffer and its chunk as one sequence. -/
theorem assemblerPass_nil_append (buf chunk : List Byte) :
    assemblerPass B [] (buf ++ chunk) = assemblerPass B buf chunk := rfl

/-- A buffer that meets INV-BUF is kept as it is while nothing comes. -/
theorem assemblerPass_nil (h : InvBuf B buf) : assemblerPass B buf [] = ⟨buf, [], false⟩ := by
  by_cases hne : buf = []
  · rw [hne]; rfl
  · obtain ⟨xs, rfl, hx, hlen⟩ := h.exists_eq_cons hne
    have hnone : firstTerm B (STX :: xs) = none := firstTerm_eq_none fun ht => hx (List.mem_of_mem_take ht)
    rw [assemblerPass, List.append_nil, passLoop_of_no_term _ _ hnone, if_neg (by omega)]

/-- The byte at which the feed discards makes the pass discard, with all that follows (R134, R137). -/
theorem assemblerPass_cons_of_overrun (h : InvBuf B buf) {b : Byte} (chunk : List Byte)
    (hb : (assemble B buf b).2 = .overrun) : assemblerPass B buf (b :: chunk) = ⟨[], [], true⟩ := by
  obtain ⟨hne, hterm, hlen⟩ := assemble_eq_overrun.1 hb
  obtain ⟨xs, rfl, hx, -⟩ := h.exists_eq_cons hne
  obtain rfl : xs.length + 1 = B := hlen
  have hnone : firstTerm (xs.length + 1) (STX :: (xs ++ b :: chunk)) = none :=
    firstTerm_eq_none (by simp [List.take_append, mt List.mem_of_mem_take hx, Ne.symm hterm])
  rw [assemblerPass, List.cons_append, passLoop_of_no_term _ _ hnone, if_pos (by simp)]

/-- A TERM while IN_FRAME ends a frame of the pass (R133). -/
theorem assemblerPass_cons_term (h : InvBuf B buf) (hne : buf ≠ []) (chunk : List Byte) :
    assemblerPass B buf (TERM :: chunk) = (assemblerPass B [] chunk).addFrames [buf ++ [TERM]] := by
  obtain ⟨xs, rfl, hx, hlen⟩ := h.exists_eq_cons hne
  have htake : (xs ++ TERM :: chunk).take (xs.length + 1) = xs ++ [TERM] := by simp [List.take_append]
  have hdrop : (xs ++ TERM :: chunk).drop (xs.length + 1) = chunk := by simp [List.drop_append]
  rw [assemblerPass, List.cons_append, passLoop_of_firstTerm _ _ (firstTerm_eq_some STX chunk hx hlen), htake,
    hdrop, assemblerPass, List.nil_append, passLoop_congr (m := chunk.length + 1) (by simp; omega) (by omega)]
  rfl

/-- Any other byte of the pass does what it does in the feed (R137). -/
theorem assemblerPass_cons (h : InvBuf B buf) {b : Byte} (chunk : List Byte)
    (hb : (assemble B buf b).2 ≠ .overrun) :
    assemblerPass B buf (b :: chunk) =
      (assemblerPass B (assemble B buf b).1 chunk).addFrames (assemble B buf b).2.frame?.toList := by
  rcases assemble_cases B buf b with ⟨rfl, rfl, he⟩ | ⟨rfl, hstx, he⟩ | ⟨hne, rfl, he⟩ | ⟨-, -, -, he⟩ |
    ⟨-, -, -, he⟩ <;> rw [he]
  · rfl
  · exact passLoop_of_ne_stx B _ chunk hstx
  · exact assemblerPass_cons_term h hne chunk
  · exact absurd (congrArg Prod.snd he) hb
  · rw [← assemblerPass_nil_append, List.append_cons]
    rfl

/-- Up to the feed's first discard, the pass has the feed's frames and goes on from the feed's buffer
(R137). -/
theorem assemblerPass_append_of_no_overrun (hB : 1 ≤ B) (h : InvBuf B buf) {xs : List Byte}
    (hx : .overrun ∉ (feed B buf xs).2) (ys : List Byte) :
    assemblerPass B buf (xs ++ ys) = (assemblerPass B (feed B buf xs).1 ys).addFrames (feedFrames B buf xs) := by
  induction xs generalizing buf with
  | nil => rfl
  | cons b xs ih =>
    obtain ⟨hb, hxs⟩ := not_or.1 (mt List.mem_cons.2 hx)
    rw [List.cons_append, assemblerPass_cons h _ (Ne.symm hb), ih (h.assemble hB b) hxs,
      PassResult.addFrames_addFrames, ← feedFrames_cons]
    rfl

/-- A feed without a discard gives the result of the pass (R137). -/
theorem assemblerPass_of_no_overrun (hB : 1 ≤ B) (h : InvBuf B buf) {chunk : List Byte}
    (hx : .overrun ∉ (feed B buf chunk).2) :
    assemblerPass B buf chunk = ⟨(feed B buf chunk).1, feedFrames B buf chunk, false⟩ := by
  have hpass := assemblerPass_append_of_no_overrun hB h hx []
  rw [List.append_nil, assemblerPass_nil (h.feed hB chunk)] at hpass
  simpa [PassResult.addFrames] using hpass

/-- The feed's first discard ends the pass (R137). -/
theorem assemblerPass_of_first_overrun (hB : 1 ≤ B) (h : InvBuf B buf) {pre : List Byte} {b : Byte}
    (hpre : .overrun ∉ (feed B buf pre).2) (hb : assemble B (feed B buf pre).1 b = ([], .overrun))
    (post : List Byte) : assemblerPass B buf (pre ++ b :: post) = ⟨[], feedFrames B buf pre, true⟩ := by
  rw [assemblerPass_append_of_no_overrun hB h hpre,
    assemblerPass_cons_of_overrun (h.feed hB pre) post (congrArg Prod.snd hb)]
  simp [PassResult.addFrames]

/-- The pass discards exactly when the feed does. -/
theorem assemblerPass_overrun_iff (hB : 1 ≤ B) (h : InvBuf B buf) (chunk : List Byte) :
    (assemblerPass B buf chunk).overrun = true ↔ .overrun ∈ (feed B buf chunk).2 := by
  refine ⟨fun ht => by_contra fun hx => ?_, fun hx => ?_⟩
  · rw [assemblerPass_of_no_overrun hB h hx] at ht
    cases ht
  · obtain ⟨pre, b, post, rfl, hpre, hb⟩ := exists_first_overrun hx
    rw [assemblerPass_of_first_overrun hB h hpre hb]

/-- Where the pass makes no discard, the feed makes none. -/
theorem overrun_notMem_feed (hB : 1 ≤ B) (h : InvBuf B buf) {chunk : List Byte}
    (hov : (assemblerPass B buf chunk).overrun = false) : .overrun ∉ (feed B buf chunk).2 :=
  (assemblerPass_overrun_iff hB h chunk).not.1 (by simp [hov])

/-- Without a discard the pass has the feed's buffer and frames. -/
theorem assemblerPass_eq_feed (hB : 1 ≤ B) (h : InvBuf B buf) {chunk : List Byte}
    (hov : (assemblerPass B buf chunk).overrun = false) :
    assemblerPass B buf chunk = ⟨(feed B buf chunk).1, feedFrames B buf chunk, false⟩ :=
  assemblerPass_of_no_overrun hB h (overrun_notMem_feed hB h hov)

/-! ## Splitting a stream (R138) -/

/-- A discard in a first chunk ends the pass on the whole. -/
theorem assemblerPass_append_of_overrun (hB : 1 ≤ B) (h : InvBuf B buf) {xs : List Byte}
    (hov : (assemblerPass B buf xs).overrun = true) (ys : List Byte) :
    assemblerPass B buf (xs ++ ys) = assemblerPass B buf xs := by
  obtain ⟨pre, b, post, rfl, hpre, hb⟩ := exists_first_overrun ((assemblerPass_overrun_iff hB h xs).1 hov)
  rw [List.append_assoc, List.cons_append, assemblerPass_of_first_overrun hB h hpre hb,
    assemblerPass_of_first_overrun hB h hpre hb]

/-- The chunked passes discard exactly when the pass on the whole stream does, and without a discard they
give its result. -/
theorem passChunks_flatten (hB : 1 ≤ B) (h : InvBuf B buf) (chunks : List (List Byte)) :
    (passChunks B buf chunks).overrun = (assemblerPass B buf chunks.flatten).overrun ∧
    ((assemblerPass B buf chunks.flatten).overrun = false →
      passChunks B buf chunks = assemblerPass B buf chunks.flatten) := by
  induction chunks generalizing buf with
  | nil => simp [assemblerPass_nil h]
  | cons chunk chunks ih =>
    rw [List.flatten_cons, passChunks_cons]
    cases hov : (assemblerPass B buf chunk).overrun with
    | true => simp [assemblerPass_append_of_overrun hB h hov, hov]
    | false =>
      obtain ⟨hiff, heq⟩ := ih (h.feed hB chunk)
      rw [assemblerPass_append_of_no_overrun hB h (overrun_notMem_feed hB h hov), assemblerPass_eq_feed hB h hov]
      exact ⟨hiff, fun hfalse => by simp only [heq hfalse]; rfl⟩

/-- A candidate frame within the bound, fed from IDLE, is emitted whole, without a discard (R62, R68). -/
theorem CandidateFrame.feed {F : List Byte} (h : CandidateFrame F) (hlen : F.length ≤ B + 1) :
    (feed B [] F).1 = [] ∧ .overrun ∉ (feed B [] F).2 ∧ feedFrames B [] F = [F] := by
  obtain ⟨xs, rfl, hx⟩ := h.exists_eq
  have hfeed := feed_frame hx (show xs.length < B by simp at hlen; omega)
  rw [feedFrames, hfeed]
  refine ⟨rfl, by simp, ?_⟩
  simp [List.filterMap_cons, List.filterMap_append]

/-- The pass on a stream of candidate frames within the bound gives exactly these frames (R138). -/
theorem assemblerPass_flatten_frames (hB : 1 ≤ B) {Fs : List (List Byte)}
    (hF : ∀ F ∈ Fs, CandidateFrame F ∧ F.length ≤ B + 1) : assemblerPass B [] Fs.flatten = ⟨[], Fs, false⟩ := by
  induction Fs with
  | nil => rfl
  | cons F Fs ih =>
    obtain ⟨⟨hcand, hlen⟩, hFs⟩ := List.forall_mem_cons.1 hF
    obtain ⟨hbuf, hov, hframes⟩ := hcand.feed hlen
    rw [List.flatten_cons, assemblerPass_append_of_no_overrun hB (.inl rfl) hov, hbuf, hframes, ih hFs]
    rfl

end

/-! ## INGEST through `exec` (R131) -/

/-- INGEST completes with the assembler's buffer and what its event records, and answers OK. -/
theorem exec_ingest (b : Byte) (s : State) :
    exec (.ingest b) s = .next { s with
      toFrameBlock := handleEvent Config.chip (assemble Config.chip.maxScan s.buf b).2
        (s.toFrameBlock.setBuf (assemble Config.chip.maxScan s.buf b).1)
      responses := s.responses ++ [⟨.ok, 0⟩] } :=
  exec_next.2 rfl

/-- What k noise events record (R132). -/
theorem foldl_handleEvent_noise (c : Config) (k : Nat) (fb : FrameBlock) :
    (List.replicate k AssemblerEvent.noise).foldl (fun f ev => handleEvent c ev f) fb =
      { fb with cnt := (Counters.bump c .noise)^[k] fb.cnt, diag := fb.diag ++ List.replicate k .noiseDropped } := by
  induction k generalizing fb with
  | zero => simp
  | succ k ih =>
    rw [List.replicate_succ, List.foldl_cons, ih, Function.iterate_succ_apply, List.replicate_succ]
    simp [handleEvent_eq_addEntries, AssemblerEvent.entries, FrameBlock.addEntries]

/-! ## The statements -/

/-- Settles O41: the record part of what a run of INGESTs does. -/
theorem ingestSequenceIsTheAssemblersFeed : Obligations.IngestSequenceIsTheAssemblersFeed :=
  fun c chunk fb => congrArg Prod.fst (commandRun_ingestSeq c chunk fb)

/-- Settles O42: without a discard the pass goes byte by byte with the feed. -/
theorem feedEqualsChunkedPassWithoutOverrun : Obligations.FeedEqualsChunkedPassWithoutOverrun := by
  intro B buf chunk hB h hov
  rw [assemblerPass_eq_feed hB h hov]
  exact ⟨rfl, rfl⟩

/-- Settles O43: the chunk splits at the feed's first discard, where the pass ends. -/
theorem feedAndChunkedPassPartAtTheOverrun : Obligations.FeedAndChunkedPassPartAtTheOverrun := by
  intro B buf chunk hB h hov
  obtain ⟨pre, b, post, rfl, hpre, hb⟩ := exists_first_overrun ((assemblerPass_overrun_iff hB h chunk).1 hov)
  have hsplit : feed B buf (pre ++ [b]) = ([], (feed B buf pre).2 ++ [.overrun]) := by
    rw [feed_append, feed_cons, hb, feed_nil]
  refine ⟨pre, b, post, rfl, hpre, hb, ?_, ?_, ?_⟩
  · rw [assemblerPass_of_first_overrun hB h hpre hb, feedFrames, hsplit]
    simp [feedFrames]
  · rw [assemblerPass_of_first_overrun hB h hpre hb]
  · rw [List.append_cons, feed_append, hsplit]

/-- Settles O44: the passes on the chunks are the pass on the stream, which without a discard is the feed. -/
theorem splittingAStreamChangesNothing : Obligations.SplittingAStreamChangesNothing := by
  intro c chunks fb hB h whole t
  obtain ⟨hiff, heq⟩ := passChunks_flatten hB h chunks
  refine ⟨hiff, fun hov => ⟨heq hov, ?_⟩, fun Fs hFs hF => ?_⟩
  · rw [show whole = _ from assemblerPass_eq_feed hB h hov, show t = _ from commandRun_flatMap_ingestSeq ..]
    exact ⟨rfl, foldl_handleEvent_out c _ fb⟩
  · exact (congrArg (assemblerPass c.maxScan []) hFs).trans (assemblerPass_flatten_frames hB hF)

/-- Settles O45: garbage without STX leaves IDLE as it is. -/
theorem garbageWithoutStxIsDropped : Obligations.GarbageWithoutStxIsDropped := by
  intro B garbage rest hg
  rw [feed_append, feed_noise hg]

/-- Settles O46: below the bound all bytes are appended; at it the last one finds a full buffer. -/
theorem attemptIsDiscardedAtTheBound : Obligations.AttemptIsDiscardedAtTheBound := by
  intro B xs hB hx
  have happend {ys : List Byte} (hy : TERM ∉ ys) (hlen : ys.length < B) :
      feed B [STX] ys = (STX :: ys, List.replicate ys.length .appended) :=
    feed_of_term_notMem (by simp) hy (by simp; omega)
  refine ⟨fun hlen => by rw [feed_nil_stx, happend hx hlen], fun hlen => ?_⟩
  rcases List.eq_nil_or_concat xs with rfl | ⟨ys, b, rfl⟩
  · simp at hlen; omega
  rw [List.concat_eq_append] at hx hlen ⊢
  obtain ⟨hy, hb⟩ := not_or.1 (mt List.mem_append.2 hx)
  have hys : ys.length + 1 = B := by simpa using hlen
  have hlast : assemble B (STX :: ys) b = ([], .overrun) := by
    rw [assemble_of_ne_term (by simp) (fun h => hb (by simp [h]))]
    exact if_pos hys
  rw [feed_nil_stx, feed_append, happend hy (by omega), feed_cons, hlast, ← hys]
  rfl

/-- Settles O15: the arms of the assembler from an empty buffer, and the feed of a run of noise. -/
theorem ingestWhileIdleOpensOrDropsNoise : Obligations.IngestWhileIdleOpensOrDropsNoise := by
  refine ⟨fun b s hbuf => ?_, fun bs s hbuf hstx => ?_⟩
  · rw [exec_ingest, hbuf, assemble_nil]
    by_cases hb : b = STX
    · rw [if_pos hb, if_pos hb]; rfl
    · rw [if_neg hb, if_neg hb]; rfl
  · rw [execRun_eq, commandRun_ingestSeq, hbuf, feed_noise hstx, foldl_handleEvent_noise]
    rfl

/-- Settles O16: the frame is counted and its validation result recorded, result by result. -/
theorem ingestTermValidatesTheCandidateFrame : Obligations.IngestTermValidatesTheCandidateFrame := by
  intro s hne
  have hpos : 0 < s.buf.length := List.length_pos_iff.2 hne
  refine ⟨by simp; omega, fun hle => by simpa using hle, ?_⟩
  rw [exec_ingest, assemble_term hne, handleEvent, validateAndEmit]
  cases validate Config.chip (s.buf ++ [TERM]) with
  | valid p | missingDelimiter | checksumMismatch | malformedChecksum => rfl

/-- Settles O17: at the bound the byte overruns, below it the byte joins the buffer. -/
theorem ingestInFrameAppendsOrOverruns : Obligations.IngestInFrameAppendsOrOverruns := by
  intro b s hpos _ hb
  have hne : s.buf ≠ [] := List.length_pos_iff.1 hpos
  rw [exec_ingest, assemble_of_ne_term hne hb, FrameBlock.len]
  by_cases hlen : s.buf.length = Config.chip.maxScan
  · rw [if_pos hlen, if_pos hlen]; rfl
  · rw [if_neg hlen, if_neg hlen]; rfl

/-- Settles O18. -/
theorem clearEmptiesOnlyTheBuffer : Obligations.ClearEmptiesOnlyTheBuffer :=
  ⟨fun _ => Laws.decode_clear, fun _ => exec_next.2 rfl⟩

end Sys2Proof.Machine

end

section
/-! SUPPORT. The validator of spec/42_validator.md: its result check by check (R161 to R166), and the
payloads it accepts (R168). -/

namespace Sys2Proof.Machine

/-! ## The checks in order (R161 to R166) -/

/-- Check 1: a frame without an ETX at 1..n-4 (R161). -/
theorem validate_of_no_etx (c : Config) {F : List Byte}
    (h : ∀ i, 1 ≤ i → i + 4 ≤ F.length → F[i]? ≠ some ETX) : validate c F = .missingDelimiter := by
  rw [validate, firstEtx_eq_none.2 h]

section
variable {c : Config} {F : List Byte} {e : Nat}

/-- Check 2: a first ETX at another place than n - 4, under STRICT_FIRST (R162). -/
theorem validate_of_misplaced_etx (he : FirstEtxAt F e) (hs : c.etxPolicy = .strictFirst)
    (hne : e + 4 ≠ F.length) : validate c F = .malformedChecksum := by
  have hhigh := he.high
  rw [validate, firstEtx_eq_some.2 he]
  exact if_pos ⟨hs, by omega⟩

/-- A first ETX has its two digits behind it, inside the frame (R162). -/
theorem FirstEtxAt.exists_digits (he : FirstEtxAt F e) :
    ∃ hi lo, F[e + 1]? = some hi ∧ F[e + 2]? = some lo := by
  have hhigh := he.high
  exact ⟨F[e + 1], F[e + 2], List.getElem?_eq_getElem _, List.getElem?_eq_getElem _⟩

/-- Checks 3 and 4: past an accepted first ETX the two bytes behind it are verified as digits of the
payload's checksum (R163 to R165). -/
theorem validate_eq_verify (he : FirstEtxAt F e) (hp : c.etxPolicy = .strictFirst → e + 4 = F.length)
    {hi lo : Byte} (hhi : F[e + 1]? = some hi) (hlo : F[e + 2]? = some lo) :
    validate c F = (verify c.table (slice F 1 (e - 1)) hi lo).validation (slice F 1 (e - 1)) := by
  have hplace : c.etxPolicy = .strictFirst → e = F.length - 4 := fun hs => by have := hp hs; omega
  rw [validate_eq_checkDigits he hplace, checkDigits_eq_validation, byteAt_eq hhi, byteAt_eq hlo]

end

/-! ## Digits and the empty payload (R63, R168) -/

/-- Both spellings of the digit F decode to it (R63). -/
theorem hexval_of_digit_f {b : Byte} (h : b = 0x46#8 ∨ b = 0x66#8) : hexval b = some 0xF#4 := by
  rcases h with rfl | rfl <;> rfl

/-- Digits that decode to FF verify the empty sequence, whose checksum FF does not depend on the table. -/
theorem verify_nil_of_ff (T : Table) {hi lo : Byte} (hhi : hexval hi = some 0xF#4)
    (hlo : hexval lo = some 0xF#4) : verify T [] hi lo = .isMatch :=
  (compareDigits_of_hexval (fold T []) hhi hlo).trans (if_pos (compute_nil T).symm)

/-- Behind an ETX right after STX, two digits and TERM are verified as the empty payload's. -/
theorem validate_empty (c : Config) (hi lo : Byte) :
    validate c [0x02#8, 0x03#8, hi, lo, 0x0D#8] = (verify c.table [] hi lo).validation [] :=
  validate_eq_verify (e := 1) (firstEtx_eq_some.1 rfl) (fun _ => rfl) rfl rfl

/-! ## The length of a valid payload (R168) -/

/-- A valid payload leaves five bytes of its frame at least, and five exactly under STRICT_FIRST. -/
theorem length_of_validate_valid {c : Config} {F p : List Byte} (h : validate c F = .valid p) :
    p.length + 5 ≤ F.length ∧ (c.etxPolicy = .strictFirst → p.length + 5 = F.length) := by
  obtain ⟨e, he, hstrict, rfl, -⟩ := validate_valid h
  have hlow := he.low
  have hhigh := he.high
  have hlen : (slice F 1 (e - 1)).length = e - 1 := by rw [slice_length (by omega)]; omega
  exact ⟨by omega, fun hs => by have := hstrict hs; omega⟩

/-! ## The statements -/

/-- Settles O34: one lemma per check, the digits decided as verification decides them. -/
theorem validatorChecksInOrder : Obligations.ValidatorChecksInOrder := by
  refine fun c F => ⟨validate_of_no_etx c, fun e he => ⟨validate_of_misplaced_etx he, fun hp => ?_⟩⟩
  obtain ⟨hi, lo, hhi, hlo⟩ := he.exists_digits
  refine ⟨hi, lo, hhi, hlo, fun hbad => ?_, fun h l hh hl => ?_⟩
  · rw [validate_eq_verify he hp hhi hlo, verify, compareDigits_of_badHex _ hbad]
    rfl
  · rw [validate_eq_verify he hp hhi hlo, verify, compareDigits_of_hexval _ hh hl,
      apply_ite (VerifyResult.validation _)]
    rfl

/-- Settles O35: the payload's place gives its length, the frame's shape its bytes. -/
theorem validPayloadIsBoundedAndUnframed : Obligations.ValidPayloadIsBoundedAndUnframed := by
  refine ⟨fun c F p hF hlen h => ?_, fun c hi lo hhi hlo => ?_⟩
  · obtain ⟨hle, hstrict⟩ := length_of_validate_valid h
    obtain ⟨hbound, hterm, hetx⟩ := hF.payloadFits hlen h
    exact ⟨hle, hbound, hstrict, hterm, hetx⟩
  · rw [validate_empty, verify_nil_of_ff _ (hexval_of_digit_f hhi) (hexval_of_digit_f hlo)]
    rfl

end Sys2Proof.Machine

end

section
/-! SUPPORT. The control commands of spec/43_control.md: NOP (R190), READ_CNT (R192) and the reserved
ops (R193). None of them writes the record, so each is settled by its response. -/

namespace Sys2Proof.Machine

/-- An operand byte holds every counter's index (R26). -/
theorem CounterName.toNat_ofNat_index (k : CounterName) : (BitVec.ofNat 8 k.index).toNat = k.index := by
  cases k <;> rfl

/-- READ_CNT returns its response and changes nothing else (R192). -/
theorem exec_readCnt (b : Byte) (s : State) : exec (.readCnt b) s = .next
    { s with responses := s.responses ++ [readCntResponse Config.chip b s.cnt] } :=
  exec_next.2 rfl

/-- Settles O14. -/
theorem nopOnlyResponds : Obligations.NopOnlyResponds :=
  ⟨fun _ => Laws.decode_nop, fun _ => exec_next.2 rfl⟩

/-- Settles O23: the counters exist or not, and with them an index selects none or its counter. -/
theorem readCntReturnsTheCounter : Obligations.ReadCntReturnsTheCounter := by
  refine ⟨fun _ => Laws.decode_readCnt, fun b s hb => ?_, fun k s => ?_⟩ <;> rw [exec_readCnt]
  · cases hc : Config.chip.counters with
    | absent => rw [readCntResponse_of_absent hc]; rfl
    | present => rw [readCntResponse_of_seven_le hc hb]; rfl
  · cases hc : Config.chip.counters with
    | absent => rw [readCntResponse_of_absent hc]; rfl
    | present => rw [readCntResponse_of_eq_index hc k.toNat_ofNat_index]; rfl

/-- Settles O24: bit 19 of the word is the top bit of its operation field. -/
theorem reservedOpOnlyRespondsWithAnError : Obligations.ReservedOpOnlyRespondsWithAnError :=
  ⟨fun w h => ⟨opField w, Laws.decode_reserved ((Laws.reservedOp_opField w).trans h)⟩,
    fun _ _ => exec_next.2 rfl⟩

end Sys2Proof.Machine

end

section
/-! SUPPORT. The exceptions of spec/60_exceptions.md: a command records at most one classified event
(R214), no error condition stops FB (R211), and FB holds its state between commands (R225). -/

namespace Sys2Proof.Machine

/-! ## What one command appends to the traces (R27, R28, R214) -/

/-- A validation result has a payload exactly when its code is VALID (R167). -/
theorem ValidationResult.diagCode_payload?_cases (r : ValidationResult) :
    (∃ p, r.diagCode = .valid ∧ r.payload? = some p) ∨ (r.diagCode ≠ .valid ∧ r.payload? = none) := by
  cases r with
  | valid p => exact .inl ⟨p, rfl, rfl⟩
  | missingDelimiter | checksumMismatch | malformedChecksum => exact .inr ⟨DiagCode.noConfusion, rfl⟩

/-- An assembler event is classified at most once, and hands a payload on exactly with VALID (R210). -/
theorem AssemblerEvent.entries_cases (c : Config) (ev : AssemblerEvent) :
    ((ev.entries c).codes = [] ∧ (ev.entries c).payloads = [])
    ∨ (∃ p, (ev.entries c).codes = [.valid] ∧ (ev.entries c).payloads = [p])
    ∨ (∃ d, d ≠ .valid ∧ (ev.entries c).codes = [d] ∧ (ev.entries c).payloads = []) := by
  cases ev with
  | opened | appended => exact .inl ⟨rfl, rfl⟩
  | noise => exact .inr (.inr ⟨.noiseDropped, DiagCode.noConfusion, rfl, rfl⟩)
  | overrun => exact .inr (.inr ⟨.frameTooLong, DiagCode.noConfusion, rfl, rfl⟩)
  | frame F =>
    rcases (validate c F).diagCode_payload?_cases with ⟨p, hd, hp⟩ | ⟨hd, hp⟩
    · exact .inr (.inl ⟨p, by simp [entries, hd], by simp [entries, hp]⟩)
    · exact .inr (.inr ⟨_, hd, rfl, by simp [entries, hp]⟩)

/-- INGEST adds what its assembler event records (R131). -/
theorem commandEntries_ingest (c : Config) (b : Byte) (buf : List Byte) :
    commandEntries c (.ingest b) buf = (assemble c.maxScan buf b).2.entries c := rfl

/-- The diagnostic trace after a command, through `exec`. -/
theorem exec_diag {i : Instr} {s t : State} (h : exec i s = .next t) :
    t.diag = s.diag ++ (commandEntries Config.chip i s.buf).codes := by
  rw [exec_record h, commandStep_record, FrameBlock.addEntries_diag, FrameBlock.setHacc_diag,
    FrameBlock.setBuf_diag]

/-- The payload trace after a command, through `exec`. -/
theorem exec_out {i : Instr} {s t : State} (h : exec i s = .next t) :
    t.out = s.out ++ (commandEntries Config.chip i s.buf).payloads := by
  rw [exec_record h, commandStep_record, FrameBlock.addEntries_out, FrameBlock.setHacc_out,
    FrameBlock.setBuf_out]

/-! ## Every step answers a next state (R211, R225) -/

/-- The step with nothing at the ports (R225). -/
theorem step_of_port_nil {s : State} (hport : s.port = []) : step s = .next s := by
  rw [step, hport]

/-- The step with the reset signal at the ports (R240). -/
theorem step_of_port_reset {s : State} {presented : Option CommandWord} {rest : List PortEvent}
    (hport : s.port = .reset presented :: rest) : step s = .next s.advancePort.applyReset := by
  rw [step, hport]

/-- Whatever the ports show, a step neither faults nor refuses (R211). -/
theorem exists_step_eq_next (s : State) : ∃ t, step s = .next t := by
  match hport : s.port with
  | [] => exact ⟨s, step_of_port_nil hport⟩
  | .reset _ :: _ => exact ⟨_, step_of_port_reset hport⟩
  | .command w :: _ =>
    rw [step_of_port_command hport]
    split
    · exact ⟨s, rfl⟩
    · exact ⟨_, exec_next.2 rfl⟩

/-- A run whose first step has a next state goes on from there. -/
theorem core_run_succ {M : Host.Core} {s t : M.State} (k : Nat) (h : M.step s = .next t) :
    M.run (k + 1) s = M.run k t := by
  rw [Host.Core.run, h]

/-- A step with a next state, before a safe run. -/
theorem SafeRun.of_step {k : Nat} {s t : State} (hstep : step s = .next t) (h : SafeRun k t) :
    SafeRun (k + 1) s := by
  obtain ⟨u, hu⟩ := h
  exact ⟨u, (core_run_succ (M := Sys2Proof.core) k hstep).trans hu⟩

/-! ## The statements -/

/-- Settles O28: INGEST appends what its one assembler event records, any other command nothing. -/
theorem atMostOneEventPerCommand : Obligations.AtMostOneEventPerCommand := by
  intro i s t h
  rw [exec_diag h, exec_out h]
  cases i with
  | ingest b =>
    rw [commandEntries_ingest]
    rcases (assemble Config.chip.maxScan s.buf b).2.entries_cases Config.chip with
      ⟨hd, hp⟩ | ⟨p, hd, hp⟩ | ⟨d, hne, hd, hp⟩ <;> rw [hd, hp]
    · exact .inl ⟨List.append_nil _, List.append_nil _⟩
    · exact .inr ⟨⟨b, rfl⟩, .inl ⟨p, rfl, rfl⟩⟩
    · exact .inr ⟨⟨b, rfl⟩, .inr ⟨d, hne, rfl, List.append_nil _⟩⟩
  | nop | clear | crcInit | crcUpdate | crcFinal | crcVerify | readCnt | reserved =>
    exact .inl ⟨List.append_nil _, List.append_nil _⟩

/-- Settles O53, by induction on the number of steps. -/
theorem noRunEverStops : Obligations.NoRunEverStops := by
  intro k
  induction k with
  | zero => exact fun s => ⟨s, rfl⟩
  | succ k ih =>
    intro s
    obtain ⟨t, hstep⟩ := exists_step_eq_next s
    exact (ih t).of_step hstep

/-- Settles O50. -/
theorem idlePortHoldsTheState : Obligations.IdlePortHoldsTheState := fun _ => step_of_port_nil

end Sys2Proof.Machine

end

section
/-! SUPPORT. Reset and hazards (spec/70_reset_and_hazards.md): what the reset signal leaves of the state
(R240, R241), exactly when a consumer holds a command (R254, I11), and from them the two statements of
that file. -/

namespace Sys2Proof.Machine

/-- A command is not held exactly when its response is accepted and so is whatever its completion in `t`
adds to `out` and to `diag` (R254, I11). `s'` is `s` with its ports moved on, from which it completes. -/
theorem held_eq_false_iff_of_exec {i : Instr} {s s' t : State}
    (hblock : s'.toFrameBlock = s.toFrameBlock) (h : exec i s' = .next t) :
    s.held i = false ↔ s.respReady = true ∧ (s.outReady = true ∨ t.out = s.out)
      ∧ (s.diagReady = true ∨ t.diag = s.diag) := by
  have hrecord : (commandStep Config.chip i s.toFrameBlock).1 = t.toFrameBlock := by
    rw [exec_record h, hblock]
  simp only [State.held, hrecord, Bool.or_eq_false_iff, Bool.and_eq_false_imp, Bool.not_eq_true',
    Bool.not_eq_false', decide_eq_false_iff_not, not_not, and_assoc, or_iff_not_imp_left,
    Bool.not_eq_true]

/-- Settles O52: the command completes from the state past its port event, and the step's hold condition
is that a consumer refuses something of that completion. -/
theorem unacceptedEntryHoldsTheCommand : Obligations.UnacceptedEntryHoldsTheCommand := by
  intro s w rest hport
  obtain ⟨t, hexec⟩ : ∃ t, exec (decode w) { s with port := rest } = .next t := ⟨_, exec_next.2 rfl⟩
  refine ⟨t, hexec, ?_⟩
  have haccepted := held_eq_false_iff_of_exec (s := s) (s' := { s with port := rest }) rfl hexec
  rw [step_of_port_command hport, hexec]
  cases hheld : s.held (decode w) with
  | false => rw [if_neg Bool.false_ne_true, if_pos (haccepted.1 hheld)]
  | true => rw [if_pos rfl, if_neg fun hall => Bool.false_ne_true ((haccepted.2 hall).symm.trans hheld)]

/-- Settles O49: the event passes with the command it carries, and the block is at its reset values. -/
theorem resetSignalWinsOverThePresentedCommand : Obligations.ResetSignalWinsOverThePresentedCommand := by
  intro s presented rest hport
  rw [step_of_port_reset hport, State.advancePort_of_port hport]
  rfl

end Sys2Proof.Machine

end
